-- ==== Sys2Proof/Word.lean ====
section
/-! DEFINITION. The word types of the machine.

A register that the spec makes `W` bits wide (00_scope.md R6, R7) is held as a `Word` of 64 bits on both
implementations.  On a 32-bit implementation its high-order half is always zero; the operations that write such
a register see to that, and `Sys2Proof.Machine.State.Inv` states it. -/

namespace Sys2Proof

/-- A `W`-bit value: 64 bits, of which a 32-bit implementation uses the low-order 32 (R6, R22). -/
abbrev Word := BitVec 64

/-- A value that is 32 bits wide on every implementation (R7): an instruction, CR, XER, FPSCR, ... -/
abbrev Word32 := BitVec 32

/-- The unit of memory (R124). -/
abbrev Byte := BitVec 8

/-- The number of a general-purpose register, GPR0 to GPR31 (R22, R152). -/
abbrev GprNum := BitVec 5

/-- The number of a floating-point register, FPR0 to FPR31 (R23, R152). -/
abbrev FprNum := BitVec 5

/-- The number of a CR field or of an FPSCR field, 0 to 7 (R26, R152). -/
abbrev FieldNum := BitVec 3

/-- The number of a segment register, SR0 to SR15 (R84, R152). -/
abbrev SrNum := BitVec 4

/-- A decoded SPR or TBR number, its two halves already back in order (R154). -/
abbrev SprNum := BitVec 10

end Sys2Proof
end

