-- ==== Sys2Proof/Syntax.lean ====
section
/-! DEFINITION. The instructions: one constructor for each of the 41 rows of spec/opcode_table.json (R172).

Operands stand in the order of the assembler syntax that the rules of the instructions give.  A register, field or
bit number has the width of its field, so that a number outside its range cannot be written (R152). -/

namespace Sys2Proof

inductive Instr where
  /-- R182 -/
  | mfspr (rD : GprNum) (spr : SprNum)
  /-- R186 -/
  | mtspr (spr : SprNum) (rS : GprNum)
  /-- R190 -/
  | mftb (rD : GprNum) (tbr : SprNum)
  /-- R194 -/
  | mfmsr (rD : GprNum)
  /-- R196 -/
  | mtmsr (rS : GprNum)
  /-- R198 -/
  | mtmsrd (rS : GprNum)
  /-- R200 -/
  | mtsr (sr : SrNum) (rS : GprNum)
  /-- R202 -/
  | mtsrin (rS rB : GprNum)
  /-- R204 -/
  | mfsr (rD : GprNum) (sr : SrNum)
  /-- R206 -/
  | mfsrin (rD rB : GprNum)
  /-- R222 -/
  | mcrf (crfD crfS : FieldNum)
  /-- R224 -/
  | mtcrf (crm : BitVec 8) (rS : GprNum)
  /-- R230 -/
  | mcrxr (crfD : FieldNum)
  /-- R232 -/
  | mcrfs (crfD crfS : FieldNum)
  /-- R234 -/
  | mtfsfi (crfD : FieldNum) (imm : BitVec 4) (rc : Bool)
  /-- R235 -/
  | mtfsf (fm : BitVec 8) (frB : FprNum) (rc : Bool)
  /-- R236 -/
  | mtfsb0 (crbD : BitVec 5) (rc : Bool)
  /-- R238 -/
  | mtfsb1 (crbD : BitVec 5) (rc : Bool)
  /-- R240 -/
  | cmp (crfD : FieldNum) (l : Bool) (rA rB : GprNum)
  /-- R241 -/
  | cmpi (crfD : FieldNum) (l : Bool) (rA : GprNum) (simm : BitVec 16)
  /-- R242 -/
  | cmpl (crfD : FieldNum) (l : Bool) (rA rB : GprNum)
  /-- R243 -/
  | cmpli (crfD : FieldNum) (l : Bool) (rA : GprNum) (uimm : BitVec 16)
  /-- R257 -/
  | b (li : BitVec 24) (aa lk : Bool)
  /-- R258 -/
  | bc (bo bi : BitVec 5) (bd : BitVec 14) (aa lk : Bool)
  /-- R259 -/
  | bclr (bo bi : BitVec 5) (lk : Bool)
  /-- R260 -/
  | bcctr (bo bi : BitVec 5) (lk : Bool)
  /-- R270 -/
  | sc
  /-- R272 -/
  | rfi
  /-- R274 -/
  | rfid
  /-- R278 -/
  | sync
  /-- R280 -/
  | isync
  /-- R284 -/
  | eciwx (rD rA rB : GprNum)
  /-- R286 -/
  | ecowx (rS rA rB : GprNum)
  /-- R288 -/
  | slbie (rB : GprNum)
  /-- R289 -/
  | slbia
  /-- R290 -/
  | tlbie (rB : GprNum)
  /-- R291 -/
  | tlbia
  /-- R302 -/
  | addi (rD rA : GprNum) (simm : BitVec 16)
  /-- R304 -/
  | lwz (rD rA : GprNum) (d : BitVec 16)
  /-- R308 -/
  | lswx (rD rA rB : GprNum)
  /-- R310 -/
  | stswx (rS rA rB : GprNum)
  deriving DecidableEq, Repr

end Sys2Proof
end

