-- ==== Sys2Proof/Decode.lean ====
section
/-! DEFINITION. Decoding an instruction word, and encoding an instruction (30_encoding.md).

The table is R172's, row by row: a word is the instruction of the row for which `w & mask = match` (R157).  Each
mask covers the opcode bits and every bit the format leaves reserved, so a word with a reserved bit set matches no
row.  A word that matches no row is refused with the reason by name; it is not an illegal instruction (R158). -/

namespace Sys2Proof.Decode

/-- Why a word is no instruction of the table (R157, R158). -/
inductive DecodeError where
  /-- fewer than the four bytes of an instruction (R150) -/
  | truncated (bytes : Nat)
  /-- the opcode is that of the named row, and a bit that the row's format reserves is one (R157, D24) -/
  | reservedBitSet (mnemonic : String)
  /-- no row has the word's primary and extended opcode (R158) -/
  | unknownOpcode (w : Word32)
  deriving DecidableEq, Repr

/-! ## Fields of the word (R152); `lo` counts from the least significant bit (R9) -/

/-- The field of `len` bits whose least significant bit is bit `lo`. -/
def field (lo len : Nat) (w : Word32) : BitVec len := w.extractLsb' lo len

/-- Bit `i` of the word, as a flag. -/
def bitAt (i : Nat) (w : Word32) : Bool := w.getLsbD i

/-- Instruction bits 6-10: rD, rS, BO, crbD. -/
def fieldD (w : Word32) : BitVec 5 := field 21 5 w

/-- Instruction bits 11-15: rA, BI. -/
def fieldA (w : Word32) : BitVec 5 := field 16 5 w

/-- Instruction bits 16-20: rB, frB. -/
def fieldB (w : Word32) : BitVec 5 := field 11 5 w

/-- The SPR or TBR number, its two halves exchanged (R154): `n = (w[15:11] << 5) | w[20:16]`. -/
def fieldSpr (w : Word32) : SprNum := (fieldB w).setWidth 10 <<< 5 ||| (fieldA w).setWidth 10

/-! ## The opcode map (R172) -/

/-- One row of R172: `mask` and `pat` are its mask and match, `opMask` the part of the mask that covers the
primary and extended opcode, and `build` reads the operands. -/
structure Row where
  mnemonic : String
  mask : Word32
  pat : Word32
  opMask : Word32
  build : Word32 → Instr

/-- The rows of R172 for mfspr, mtspr, mftb. -/
def rowsSpr : List Row := [
  ⟨"mfspr", 0xFC0007FF#32, 0x7C0002A6#32, 0xFC0007FE#32, fun w => .mfspr (fieldD w) (fieldSpr w)⟩,
  ⟨"mtspr", 0xFC0007FF#32, 0x7C0003A6#32, 0xFC0007FE#32, fun w => .mtspr (fieldSpr w) (fieldD w)⟩,
  ⟨"mftb", 0xFC0007FF#32, 0x7C0002E6#32, 0xFC0007FE#32, fun w => .mftb (fieldD w) (fieldSpr w)⟩]

/-- The rows of R172 for mfmsr, mtmsr, mtmsrd, mtsr, mtsrin, mfsr, mfsrin. -/
def rowsMsr : List Row := [
  ⟨"mfmsr", 0xFC1FFFFF#32, 0x7C0000A6#32, 0xFC0007FE#32, fun w => .mfmsr (fieldD w)⟩,
  ⟨"mtmsr", 0xFC1FFFFF#32, 0x7C000124#32, 0xFC0007FE#32, fun w => .mtmsr (fieldD w)⟩,
  ⟨"mtmsrd", 0xFC1FFFFF#32, 0x7C000164#32, 0xFC0007FE#32, fun w => .mtmsrd (fieldD w)⟩,
  ⟨"mtsr", 0xFC10FFFF#32, 0x7C0001A4#32, 0xFC0007FE#32, fun w => .mtsr (field 16 4 w) (fieldD w)⟩,
  ⟨"mtsrin", 0xFC1F07FF#32, 0x7C0001E4#32, 0xFC0007FE#32, fun w => .mtsrin (fieldD w) (fieldB w)⟩,
  ⟨"mfsr", 0xFC10FFFF#32, 0x7C0004A6#32, 0xFC0007FE#32, fun w => .mfsr (fieldD w) (field 16 4 w)⟩,
  ⟨"mfsrin", 0xFC1F07FF#32, 0x7C000526#32, 0xFC0007FE#32, fun w => .mfsrin (fieldD w) (fieldB w)⟩]

/-- The rows of R172 for mcrf, mtcrf, mcrxr, mcrfs, mtfsfi, mtfsf, mtfsb0, mtfsb1. -/
def rowsCr : List Row := [
  ⟨"mcrf", 0xFC63FFFF#32, 0x4C000000#32, 0xFC0007FE#32, fun w => .mcrf (field 23 3 w) (field 18 3 w)⟩,
  ⟨"mtcrf", 0xFC100FFF#32, 0x7C000120#32, 0xFC0007FE#32, fun w => .mtcrf (field 12 8 w) (fieldD w)⟩,
  ⟨"mcrxr", 0xFC7FFFFF#32, 0x7C000400#32, 0xFC0007FE#32, fun w => .mcrxr (field 23 3 w)⟩,
  ⟨"mcrfs", 0xFC63FFFF#32, 0xFC000080#32, 0xFC0007FE#32, fun w => .mcrfs (field 23 3 w) (field 18 3 w)⟩,
  ⟨"mtfsfi", 0xFC7F0FFE#32, 0xFC00010C#32, 0xFC0007FE#32, fun w => .mtfsfi (field 23 3 w) (field 12 4 w) (bitAt 0 w)⟩,
  ⟨"mtfsf", 0xFE0107FE#32, 0xFC00058E#32, 0xFC0007FE#32, fun w => .mtfsf (field 17 8 w) (fieldB w) (bitAt 0 w)⟩,
  ⟨"mtfsb0", 0xFC1FFFFE#32, 0xFC00008C#32, 0xFC0007FE#32, fun w => .mtfsb0 (fieldD w) (bitAt 0 w)⟩,
  ⟨"mtfsb1", 0xFC1FFFFE#32, 0xFC00004C#32, 0xFC0007FE#32, fun w => .mtfsb1 (fieldD w) (bitAt 0 w)⟩]

/-- The rows of R172 for cmp, cmpi, cmpl, cmpli. -/
def rowsCompare : List Row := [
  ⟨"cmp", 0xFC4007FF#32, 0x7C000000#32, 0xFC0007FE#32, fun w => .cmp (field 23 3 w) (bitAt 21 w) (fieldA w) (fieldB w)⟩,
  ⟨"cmpi", 0xFC400000#32, 0x2C000000#32, 0xFC000000#32, fun w => .cmpi (field 23 3 w) (bitAt 21 w) (fieldA w) (field 0 16 w)⟩,
  ⟨"cmpl", 0xFC4007FF#32, 0x7C000040#32, 0xFC0007FE#32, fun w => .cmpl (field 23 3 w) (bitAt 21 w) (fieldA w) (fieldB w)⟩,
  ⟨"cmpli", 0xFC400000#32, 0x28000000#32, 0xFC000000#32, fun w => .cmpli (field 23 3 w) (bitAt 21 w) (fieldA w) (field 0 16 w)⟩]

/-- The rows of R172 for b, bc, bclr, bcctr. -/
def rowsBranch : List Row := [
  ⟨"b", 0xFC000000#32, 0x48000000#32, 0xFC000000#32, fun w => .b (field 2 24 w) (bitAt 1 w) (bitAt 0 w)⟩,
  ⟨"bc", 0xFC000000#32, 0x40000000#32, 0xFC000000#32, fun w => .bc (fieldD w) (fieldA w) (field 2 14 w) (bitAt 1 w) (bitAt 0 w)⟩,
  ⟨"bclr", 0xFC00FFFE#32, 0x4C000020#32, 0xFC0007FE#32, fun w => .bclr (fieldD w) (fieldA w) (bitAt 0 w)⟩,
  ⟨"bcctr", 0xFC00FFFE#32, 0x4C000420#32, 0xFC0007FE#32, fun w => .bcctr (fieldD w) (fieldA w) (bitAt 0 w)⟩]

/-- The rows of R172 for sc, rfi, rfid, sync, isync, eciwx, ecowx, slbie, slbia, tlbie, tlbia. -/
def rowsSystem : List Row := [
  ⟨"sc", 0xFFFFFFFF#32, 0x44000002#32, 0xFC000000#32, fun _ => .sc⟩,
  ⟨"rfi", 0xFFFFFFFF#32, 0x4C000064#32, 0xFC0007FE#32, fun _ => .rfi⟩,
  ⟨"rfid", 0xFFFFFFFF#32, 0x4C000024#32, 0xFC0007FE#32, fun _ => .rfid⟩,
  ⟨"sync", 0xFFFFFFFF#32, 0x7C0004AC#32, 0xFC0007FE#32, fun _ => .sync⟩,
  ⟨"isync", 0xFFFFFFFF#32, 0x4C00012C#32, 0xFC0007FE#32, fun _ => .isync⟩,
  ⟨"eciwx", 0xFC0007FF#32, 0x7C00026C#32, 0xFC0007FE#32, fun w => .eciwx (fieldD w) (fieldA w) (fieldB w)⟩,
  ⟨"ecowx", 0xFC0007FF#32, 0x7C00036C#32, 0xFC0007FE#32, fun w => .ecowx (fieldD w) (fieldA w) (fieldB w)⟩,
  ⟨"slbie", 0xFFFF07FF#32, 0x7C000364#32, 0xFC0007FE#32, fun w => .slbie (fieldB w)⟩,
  ⟨"slbia", 0xFFFFFFFF#32, 0x7C0003E4#32, 0xFC0007FE#32, fun _ => .slbia⟩,
  ⟨"tlbie", 0xFFFF07FF#32, 0x7C000264#32, 0xFC0007FE#32, fun w => .tlbie (fieldB w)⟩,
  ⟨"tlbia", 0xFFFFFFFF#32, 0x7C0002E4#32, 0xFC0007FE#32, fun _ => .tlbia⟩]

/-- The rows of R172 for addi, lwz, lswx, stswx. -/
def rowsLoadStore : List Row := [
  ⟨"addi", 0xFC000000#32, 0x38000000#32, 0xFC000000#32, fun w => .addi (fieldD w) (fieldA w) (field 0 16 w)⟩,
  ⟨"lwz", 0xFC000000#32, 0x80000000#32, 0xFC000000#32, fun w => .lwz (fieldD w) (fieldA w) (field 0 16 w)⟩,
  ⟨"lswx", 0xFC0007FF#32, 0x7C00042A#32, 0xFC0007FE#32, fun w => .lswx (fieldD w) (fieldA w) (fieldB w)⟩,
  ⟨"stswx", 0xFC0007FF#32, 0x7C00052A#32, 0xFC0007FE#32, fun w => .stswx (fieldD w) (fieldA w) (fieldB w)⟩]

/-- The 41 rows of R172. -/
def table : List Row :=
  rowsSpr ++ rowsMsr ++ rowsCr ++ rowsCompare ++ rowsBranch ++ rowsSystem ++ rowsLoadStore

/-- The word is the row's instruction: `w & mask = match` (R157). -/
def Row.matches (r : Row) (w : Word32) : Bool := w &&& r.mask == r.pat

/-- The reason a word that matches no row is refused: a reserved bit of a known opcode, or no known opcode. -/
def reject (w : Word32) : DecodeError :=
  match table.find? (fun r => w &&& r.opMask == r.pat &&& r.opMask) with
  | some r => .reservedBitSet r.mnemonic
  | none => .unknownOpcode w

/-- The instruction a word stands for (R157). -/
def decode (w : Word32) : Except DecodeError Instr :=
  match table.find? (fun r => r.matches w) with
  | some r => .ok (r.build w)
  | none => .error (reject w)

/-- Four bytes as a word, the first byte the most significant (R124, R150). -/
def wordOfBytes (b0 b1 b2 b3 : Byte) : Word32 :=
  b0.setWidth 32 <<< 24 ||| b1.setWidth 32 <<< 16 ||| b2.setWidth 32 <<< 8 ||| b3.setWidth 32

/-- Byte `k` of a word, byte 0 the most significant: the byte that lies at the word's address plus `k` (R124). -/
def byteOfWord (w : Word32) (k : Nat) : Byte := w.extractLsb' (24 - 8 * k) 8

/-- The instruction at the head of a list of bytes, in the order in which they lie in memory. -/
def decodeBytes : List Byte → Except DecodeError Instr
  | b0 :: b1 :: b2 :: b3 :: _ => decode (wordOfBytes b0 b1 b2 b3)
  | bs => .error (.truncated bs.length)

/-! ## Encoding: the row's match with the operands in their fields (R172, R152) -/

/-- A field value at bit `lo` of the word. -/
def put {n : Nat} (lo : Nat) (v : BitVec n) : Word32 := v.setWidth 32 <<< lo

/-- A one-bit field at bit `i` of the word. -/
def putBit (i : Nat) (v : Bool) : Word32 := put i (BitVec.ofBool v)

/-- The SPR or TBR field (R154): `w[20:11] = (n[4:0] << 5) | n[9:5]`. -/
def putSpr (n : SprNum) : Word32 := put 16 (n.extractLsb' 0 5) ||| put 11 (n.extractLsb' 5 5)

/-- The word of an instruction. -/
def encode : Instr → Word32
  | .mfspr rD spr => 0x7C0002A6#32 ||| put 21 rD ||| putSpr spr
  | .mtspr spr rS => 0x7C0003A6#32 ||| putSpr spr ||| put 21 rS
  | .mftb rD tbr => 0x7C0002E6#32 ||| put 21 rD ||| putSpr tbr
  | .mfmsr rD => 0x7C0000A6#32 ||| put 21 rD
  | .mtmsr rS => 0x7C000124#32 ||| put 21 rS
  | .mtmsrd rS => 0x7C000164#32 ||| put 21 rS
  | .mtsr sr rS => 0x7C0001A4#32 ||| put 16 sr ||| put 21 rS
  | .mtsrin rS rB => 0x7C0001E4#32 ||| put 21 rS ||| put 11 rB
  | .mfsr rD sr => 0x7C0004A6#32 ||| put 21 rD ||| put 16 sr
  | .mfsrin rD rB => 0x7C000526#32 ||| put 21 rD ||| put 11 rB
  | .mcrf crfD crfS => 0x4C000000#32 ||| put 23 crfD ||| put 18 crfS
  | .mtcrf crm rS => 0x7C000120#32 ||| put 12 crm ||| put 21 rS
  | .mcrxr crfD => 0x7C000400#32 ||| put 23 crfD
  | .mcrfs crfD crfS => 0xFC000080#32 ||| put 23 crfD ||| put 18 crfS
  | .mtfsfi crfD imm rc => 0xFC00010C#32 ||| put 23 crfD ||| put 12 imm ||| putBit 0 rc
  | .mtfsf fm frB rc => 0xFC00058E#32 ||| put 17 fm ||| put 11 frB ||| putBit 0 rc
  | .mtfsb0 crbD rc => 0xFC00008C#32 ||| put 21 crbD ||| putBit 0 rc
  | .mtfsb1 crbD rc => 0xFC00004C#32 ||| put 21 crbD ||| putBit 0 rc
  | .cmp crfD l rA rB => 0x7C000000#32 ||| put 23 crfD ||| putBit 21 l ||| put 16 rA ||| put 11 rB
  | .cmpi crfD l rA simm => 0x2C000000#32 ||| put 23 crfD ||| putBit 21 l ||| put 16 rA ||| put 0 simm
  | .cmpl crfD l rA rB => 0x7C000040#32 ||| put 23 crfD ||| putBit 21 l ||| put 16 rA ||| put 11 rB
  | .cmpli crfD l rA uimm => 0x28000000#32 ||| put 23 crfD ||| putBit 21 l ||| put 16 rA ||| put 0 uimm
  | .b li aa lk => 0x48000000#32 ||| put 2 li ||| putBit 1 aa ||| putBit 0 lk
  | .bc bo bi bd aa lk => 0x40000000#32 ||| put 21 bo ||| put 16 bi ||| put 2 bd ||| putBit 1 aa ||| putBit 0 lk
  | .bclr bo bi lk => 0x4C000020#32 ||| put 21 bo ||| put 16 bi ||| putBit 0 lk
  | .bcctr bo bi lk => 0x4C000420#32 ||| put 21 bo ||| put 16 bi ||| putBit 0 lk
  | .sc => 0x44000002#32
  | .rfi => 0x4C000064#32
  | .rfid => 0x4C000024#32
  | .sync => 0x7C0004AC#32
  | .isync => 0x4C00012C#32
  | .eciwx rD rA rB => 0x7C00026C#32 ||| put 21 rD ||| put 16 rA ||| put 11 rB
  | .ecowx rS rA rB => 0x7C00036C#32 ||| put 21 rS ||| put 16 rA ||| put 11 rB
  | .slbie rB => 0x7C000364#32 ||| put 11 rB
  | .slbia => 0x7C0003E4#32
  | .tlbie rB => 0x7C000264#32 ||| put 11 rB
  | .tlbia => 0x7C0002E4#32
  | .addi rD rA simm => 0x38000000#32 ||| put 21 rD ||| put 16 rA ||| put 0 simm
  | .lwz rD rA d => 0x80000000#32 ||| put 21 rD ||| put 16 rA ||| put 0 d
  | .lswx rD rA rB => 0x7C00042A#32 ||| put 21 rD ||| put 16 rA ||| put 11 rB
  | .stswx rS rA rB => 0x7C00052A#32 ||| put 21 rS ||| put 16 rA ||| put 11 rB

end Sys2Proof.Decode

namespace Sys2Proof

/-- The instruction the decoder reads from the word `w` of spec/opcode_table.json's numbering: its bytes are laid
out as the machine stores them, most significant first, and given to `decodeBytes`. -/
def decodeTableWord (nbits w : Nat) : Option Instr :=
  let v := BitVec.ofNat 32 (w % 2 ^ nbits)
  (Decode.decodeBytes ((List.range 4).map (Decode.byteOfWord v))).toOption

end Sys2Proof
end

