-- ==== Sys2Proof/Config.lean ====
section
/-! DEFINITION. What an implementation fixes (the parameters of 00_scope.md R6) and the values the spec leaves free.

The parameters are plain data: a state carries them in its field `cfg`, which no step changes, because every
instruction of the table exists on some implementation and not on all of them, and `exec` has no other place to
take them from (log entry 1).  The free values are opaque constants without a body: nothing can be proved of
them but that they are values of their type (log entry 2). -/

namespace Sys2Proof.Config

/-- The parameter `IMPL` of R6: a 32-bit or a 64-bit implementation. -/
inductive Impl where
  | w32
  | w64
  deriving DecidableEq, Repr

/-- The parameter `UNDEF_SPR` (R6, R184, D4): what **mtspr**/**mfspr** with an undefined SPR number does. -/
inductive UndefSpr where
  /-- take the illegal instruction program exception -/
  | illegal
  /-- take the privileged instruction program exception -/
  | privileged
  /-- "boundedly undefined": the model stops -/
  | refuse
  /-- the default of R184: stop in supervisor mode; in user mode the privilege bit of the number decides between
  the two program exceptions -/
  | byPrivilegeBit
  deriving DecidableEq, Repr

/-- The parameter `MISALIGNED` (R6, R126, D10): what a misaligned **lwz** does. -/
inductive Misaligned where
  | bytewise
  | alignment
  | refuse
  deriving DecidableEq, Repr

/-- One run of physical addresses that hold memory, an element of `MEM_MAP` (R6, R129, R143). -/
structure Region where
  base : Nat
  size : Nat
  deriving DecidableEq, Repr

/-- The parameters of R6 that are values.  (`TB_TICK` and the three input streams are the field `inputs` of the
state, `device_in` its field `deviceIn`, `device_out` its field `deviceOut`.) -/
structure Params where
  /-- `IMPL` -/
  impl : Impl
  /-- `HAS_BRIDGE`, read only when `impl` is `w64` -/
  hasBridge : Bool
  /-- `HAS_POW` -/
  hasPow : Bool
  /-- `HAS_SE` -/
  hasSe : Bool
  /-- `HAS_BE` -/
  hasBe : Bool
  /-- `HAS_FPECR` -/
  hasFpecr : Bool
  /-- `HAS_EAR` -/
  hasEar : Bool
  /-- `RID_BITS`, 0 to 6 -/
  ridBits : Fin 7
  /-- `HAS_DABR` -/
  hasDabr : Bool
  /-- `HAS_PIR` -/
  hasPir : Bool
  /-- `PVR_VALUE`: the whole of the PVR, which never changes (R69) -/
  pvrValue : Word32
  /-- `UNDEF_SPR` -/
  undefSpr : UndefSpr
  /-- `MSR_RESET_IP` -/
  msrResetIp : Bool
  /-- `MISALIGNED` -/
  misaligned : Misaligned
  /-- `MEM_MAP` -/
  memMap : List Region
  deriving DecidableEq, Repr

/-- The parameters of the machine that `State.reset` describes: a 32-bit implementation (the spec's advice for one
concrete machine, D1) with the optional facilities the spec describes in full; FPECR and PIR are absent, as R96 and R107 have it by default.
DESIGN CHOICE, log entry 3. -/
def Params.atReset : Params where
  impl := .w32
  hasBridge := false
  hasPow := false
  hasSe := true
  hasBe := true
  hasFpecr := false
  hasEar := true
  ridBits := 6
  hasDabr := true
  hasPir := false
  pvrValue := 0
  undefSpr := .illegal
  msrResetIp := true
  misaligned := .bytewise
  memMap := [⟨0, 2 ^ 32⟩]

/-- The places at which the spec leaves a value or a choice open while the machine goes on. -/
inductive FreeSite where
  /-- what a reserved bit reads as when a one was last written to it (R20) -/
  | reservedBits
  /-- old or new context, for each MSR bit whose synchronization window is open (R401, R402) -/
  | window
  /-- which value of the EAR an instruction sees while the EAR's window is open (R402) -/
  | earWindow
  /-- GPR[rD] after **lswx** with a count of zero (R308) -/
  | lswxEmpty
  /-- the DSISR after an alignment exception (R343) -/
  | dsisrAlignment
  /-- the first three bits of CR0 where the spec calls them undefined (R64 (d), R211) -/
  | cr0
  /-- what a single-precision store of a value that has no single-precision form puts in memory (R24, R306) -/
  | singleStore
  /-- the FPSCR's status bits, and CR1 with Rc = 1, after an instruction on such a value (R24, R306) -/
  | singleStatus
  deriving DecidableEq, Repr

/-- `undefined(n)` of R10 and the oracles of D17 and D19: a value for each place and each number of the state's
counter `freeCtr`, which every step advances.  It has no body. -/
opaque free (site : FreeSite) (n : Nat) : Word

/-- The device's answer, `device_in(RID, PA)` of R284, at the points the state's table `deviceIn` does not list.
It may differ from one moment (`n`) to the next.  It has no body. -/
opaque deviceWord (n : Nat) (rid : BitVec 6) (pa : Word) : Word32

end Sys2Proof.Config
end

