-- ==== Sys2Proof/Machine/Bits.lean ====
section
/-! DEFINITION. Bit fields, extensions and masks.

The spec numbers bits from the most significant end (R8); the masks here are those of its tables' "mask" columns. -/

namespace Sys2Proof.Machine

open Sys2Proof.Config

/-- The low-order 32 bits, the high-order half cleared. -/
def low32 (v : Word) : Word := v &&& 0x00000000FFFFFFFF

/-- The low-order word of a register. -/
def lowWord (v : Word) : Word32 := v.setWidth 32

/-- A 32-bit value in a `W`-bit register, the high-order half cleared (`zext_W`, R10, R183). -/
def zextWord (v : Word32) : Word := v.setWidth 64

/-- A 32-bit value sign-extended (`sext_W`, R10, R240). -/
def sextWord (v : Word32) : Word := v.signExtend 64

/-- A 16-bit immediate sign-extended (SIMM, d; R152). -/
def sextImm (v : BitVec 16) : Word := v.signExtend 64

/-- `LI || 0b00` sign-extended (R255). -/
def sextLI (v : BitVec 24) : Word := v.signExtend 64 <<< 2

/-- `BD || 0b00` sign-extended (R255). -/
def sextBD (v : BitVec 14) : Word := v.signExtend 64 <<< 2

/-- The value with the two low-order bits cleared: an address of an instruction (R49, R53). -/
def clearLow2 (v : Word) : Word := v &&& 0xFFFFFFFFFFFFFFFC

/-- The bits of `mask` set to `b`, the others kept. -/
def withBits {n : Nat} (v mask : BitVec n) (b : Bool) : BitVec n :=
  if b then v ||| mask else v &&& ~~~mask

/-- The bits of `mask` taken from `new`, the others from `old`. -/
def merge {n : Nat} (old new mask : BitVec n) : BitVec n := (old &&& ~~~mask) ||| (new &&& mask)

/-- Field `f` of a register of eight 4-bit fields, field 0 the most significant: `CRF(f)`, `FPF(f)` (R26, R232). -/
def field4 (v : Word32) (f : FieldNum) : BitVec 4 := v.extractLsb' (28 - 4 * f.toNat) 4

/-- A 4-bit value in the position of field `f`. -/
def atField4 (f : FieldNum) (v : BitVec 4) : Word32 := v.setWidth 32 <<< (28 - 4 * f.toNat)

/-- The bits of field `f`. -/
def field4Mask (f : FieldNum) : Word32 := atField4 f 0xF

/-- Field `f` replaced. -/
def setField4 (v : Word32) (f : FieldNum) (x : BitVec 4) : Word32 := merge v (atField4 f x) (field4Mask f)

/-- The fields a mask of eight bits selects, its most significant bit field 0 (CRM and FM, R224, R235). -/
def fieldsMask (m : BitVec 8) : Word32 :=
  ((List.range 8).map (fun i => if m.getLsbD (7 - i) then 0xF0000000#32 >>> (4 * i) else 0)).foldl (· ||| ·) 0

/-- Bit `i` of a 32-bit register in the spec's numbering, as a mask: bit 0 is the most significant (R8). -/
def srcBit (i : BitVec 5) : Word32 := 0x80000000#32 >>> i.toNat

/-- Bit `i` of a 32-bit register in the spec's numbering (R8). -/
def srcBitAt (v : Word32) (i : BitVec 5) : Bool := v.getLsbD (31 - i.toNat)

/-- What a read of a register gives where `reserved` are its reserved bits (R20): a bit last written as zero reads as
zero, a bit last written as one as the free value's bit. -/
def readReserved (stored reserved free : Word) : Word :=
  if stored &&& reserved = 0 then stored else merge stored (stored &&& free) reserved

/-- The parameter `IMPL` is 64. -/
def is64 (p : Params) : Bool := p.impl == .w64

/-- The 64-bit bridge is implemented (`HAS_BRIDGE`, only when `IMPL` is 64; R6). -/
def hasBridge (p : Params) : Bool := is64 p && p.hasBridge

/-- A value as a `W`-bit register holds it: modulo 2^W (R10). -/
def toWidth (p : Params) (v : Word) : Word := if is64 p then v else low32 v

end Sys2Proof.Machine
end

