-- ==== Sys2Proof/Machine/Flags.lean ====
section
/-! DEFINITION. The rules that compute CR, XER and FPSCR bits (41_cr_xer_fpscr.md, 10_state.md section 2).

The class rules for instructions outside the table (record forms, OE forms, carrying and shifting arithmetic,
floating-point results) stand here with the ones the table's instructions use; R210 to R220 state them for a model
that adds those instructions. -/

namespace Sys2Proof.Machine

open Sys2Proof.Config

/-! ## XER (R46) -/

def xerSO (x : Word32) : Bool := x.getLsbD 31
def xerOV (x : Word32) : Bool := x.getLsbD 30
def xerCA (x : Word32) : Bool := x.getLsbD 29

/-- XER bits 25-31, the number of bytes of a string transfer (R46). -/
def xerByteCount (x : Word32) : Nat := (x &&& 0x7F).toNat

/-- The XER's reserved bits, 3-24 (R46). -/
def xerReserved : Word32 := 0x1FFFFF80

/-- OV written, and SO set when OV is (R215): an instruction that clears OV leaves SO as it was. -/
def writeOV (x : Word32) (ov : Bool) : Word32 :=
  withBits (withBits x 0x40000000 ov) 0x80000000 (xerSO x || ov)

/-- CA written (R218, R219). -/
def writeCA (x : Word32) (ca : Bool) : Word32 := withBits x 0x20000000 ca

/-- The carry out of the most significant of `n` bits of `a + b + c` (R218); `carryOf` gives it the mode's length. -/
def carryOut (n : Nat) (a b : BitVec n) (c : Bool) : Bool := 2 ^ n ≤ a.toNat + b.toNat + c.toNat

/-- The carry into the most significant bit of `a + b + c`: the carry out of the bit below it (R216). -/
def carryIntoMsb (n : Nat) (a b : BitVec n) (c : Bool) : Bool :=
  2 ^ (n - 1) ≤ a.toNat % 2 ^ (n - 1) + b.toNat % 2 ^ (n - 1) + c.toNat

/-- OV of an add, subtract-from or negate with OE = 1: the carry out of the msb differs from the carry out of the bit
to its right (R216); `overflowOf` gives it the mode's length. -/
def addOverflow (n : Nat) (a b : BitVec n) (c : Bool) : Bool := carryOut n a b c != carryIntoMsb n a b c

/-- OV of a multiply low or divide with OE = 1: the exact signed result is not representable in `n` bits (R217). -/
def signedOverflow (n : Nat) (exact : Int) : Bool := exact < -(2 ^ (n - 1) : Int) || (2 ^ (n - 1) : Int) ≤ exact

/-- OV of an unsigned divide with OE = 1: the exact result is not representable in `n` bits (R217). -/
def unsignedOverflow (n : Nat) (exact : Int) : Bool := exact < 0 || (2 ^ n : Int) ≤ exact

/-- CA of a shift right algebraic by `k`: a negative operand from which a one bit is shifted out (R219). -/
def shiftRightCarry (n : Nat) (a : BitVec n) (k : Nat) : Bool := a.msb && a.toNat % 2 ^ k != 0

/-! ## CR (R26, R27) -/

/-- The three bits LT, GT, EQ followed by SO (R27). -/
def crBits (lt gt so : Bool) : BitVec 4 :=
  BitVec.ofBool lt ++ BitVec.ofBool gt ++ BitVec.ofBool (!lt && !gt) ++ BitVec.ofBool so

/-- CR0 after a recording integer instruction: the signed comparison of the `n`-bit result with zero, and SO (R210;
`n` is the mode's length, which `recordCr0` gives it, R214). -/
def cr0Record (n : Nat) (r : BitVec n) (so : Bool) : BitVec 4 := crBits (r.slt 0) ((0 : BitVec n).slt r) so

/-- CR0 where the spec calls its first three bits undefined: a free value, which `recordCr0Undefined` draws, and SO
(R211). -/
def cr0Undefined (free : BitVec 3) (so : Bool) : BitVec 4 := free ++ BitVec.ofBool so

/-- The field a signed compare writes (R213, R240). -/
def compareSigned (a b : Word) (so : Bool) : BitVec 4 := crBits (a.slt b) (b.slt a) so

/-- The field an unsigned compare writes (R213, R242). -/
def compareUnsigned (a b : Word) (so : Bool) : BitVec 4 := crBits (a.ult b) (b.ult a) so

/-- The field, and the FPCC, of a floating-point compare: FL, FG, FE or FU, exactly one of them (R213, R37). -/
inductive FpOrder where
  | less
  | greater
  | equal
  | unordered
  deriving DecidableEq, Repr

/-- The four bits FL FG FE FU of an order (R27, R37). -/
def fpOrderBits : FpOrder → BitVec 4
  | .less => 0b1000
  | .greater => 0b0100
  | .equal => 0b0010
  | .unordered => 0b0001

/-! ## FPSCR (R31) -/

/-- The exception bits OX, UX, ZX, XX, VXSNAN, VXISI, VXIDI, VXZDZ, VXIMZ, VXVC, VXSOFT, VXSQRT, VXCVI (R32). -/
def fpscrExceptionBits : Word32 := 0x1FF80700

/-- FX and the exception bits: the sticky bits (R42). -/
def fpscrStickyBits : Word32 := 0x9FF80700

/-- The nine invalid operation exception bits (R34). -/
def fpscrInvalidBits : Word32 := 0x01F80700

/-- FEX and VX, which no instruction writes (R33, R34, R231 (b)). -/
def fpscrComputedBits : Word32 := 0x60000000

/-- The reserved bit FPSCR{20} (R31). -/
def fpscrReserved : Word32 := 0x00000800

/-- VX: the OR of the nine invalid operation exceptions (R34). -/
def fpscrVX (f : Word32) : Bool := f &&& fpscrInvalidBits != 0

/-- FEX: the OR of the exceptions masked by their enables (R33, R39, C3). -/
def fpscrFEX (f : Word32) : Bool :=
  (fpscrVX f && f.getLsbD 7) || (f.getLsbD 28 && f.getLsbD 6) || (f.getLsbD 27 && f.getLsbD 5) ||
    (f.getLsbD 26 && f.getLsbD 4) || (f.getLsbD 25 && f.getLsbD 3)

/-- The FPSCR with FEX and VX at their computed values (R33, R34). -/
def fpscrComputed (f : Word32) : Word32 :=
  withBits (withBits f 0x20000000 (fpscrVX f)) 0x40000000 (fpscrFEX f)

/-- The FPSCR with the bits of `mask`, FEX and VX aside, taken from `new` (R231 (b)). -/
def writeFpscr (old new mask : Word32) : Word32 := merge old new (mask &&& ~~~fpscrComputedBits)

/-- FX set if an exception bit goes from 0 to 1 (R32): for every floating-point instruction but **mtfsfi**, **mtfsf**. -/
def implicitFX (old new : Word32) : Word32 :=
  withBits new 0x80000000 (new.getLsbD 31 || (new &&& ~~~old &&& fpscrExceptionBits != 0))

/-- FR written (R36). -/
def writeFR (f : Word32) (fr : Bool) : Word32 := withBits f 0x00040000 fr

/-- FI written (R36), and XX, its sticky version, with it (R35): `XX_new = XX_old | FI_new`. -/
def writeFI (f : Word32) (fi : Bool) : Word32 :=
  withBits (withBits f 0x00020000 fi) 0x02000000 (f.getLsbD 25 || fi)

/-- FPRF, the five bits C FL FG FE FU, written (R37). -/
def writeFPRF (f : Word32) (v : BitVec 5) : Word32 := merge f (v.setWidth 32 <<< 12) 0x0001F000

/-- FPCC written by a floating-point compare (R37). -/
def writeFPCC (f : Word32) (o : FpOrder) : Word32 := merge f ((fpOrderBits o).setWidth 32 <<< 12) 0x0000F000

/-- The result classes of Table 2-5 (R37). -/
inductive FpClass where
  | quietNaN
  | negInfinity
  | negNormalized
  | negDenormalized
  | negZero
  | posZero
  | posDenormalized
  | posNormalized
  | posInfinity
  deriving DecidableEq, Repr

/-- FPRF of a result class (Table 2-5, R37). -/
def fprfOf : FpClass → BitVec 5
  | .quietNaN => 0x11
  | .negInfinity => 0x09
  | .negNormalized => 0x08
  | .negDenormalized => 0x18
  | .negZero => 0x12
  | .posZero => 0x02
  | .posDenormalized => 0x14
  | .posNormalized => 0x04
  | .posInfinity => 0x05

/-- The rounding modes of FPSCR[RN] (R41). -/
inductive Rounding where
  | nearest
  | towardZero
  | towardPosInfinity
  | towardNegInfinity
  deriving DecidableEq, Repr

/-- FPSCR[RN] (R41). -/
def fpscrRN (f : Word32) : Rounding :=
  match f.getLsbD 1, f.getLsbD 0 with
  | false, false => .nearest
  | false, true => .towardZero
  | true, false => .towardPosInfinity
  | true, true => .towardNegInfinity

/-! ## MSR (R63) -/

def msrSF (m : Word) : Bool := m.getLsbD 63
def msrISF (m : Word) : Bool := m.getLsbD 61
def msrPOW (m : Word) : Bool := m.getLsbD 18
def msrILE (m : Word) : Bool := m.getLsbD 16
def msrEE (m : Word) : Bool := m.getLsbD 15
def msrPR (m : Word) : Bool := m.getLsbD 14
def msrFP (m : Word) : Bool := m.getLsbD 13
def msrME (m : Word) : Bool := m.getLsbD 12
def msrFE0 (m : Word) : Bool := m.getLsbD 11
def msrSE (m : Word) : Bool := m.getLsbD 10
def msrBE (m : Word) : Bool := m.getLsbD 9
def msrFE1 (m : Word) : Bool := m.getLsbD 8
def msrIP (m : Word) : Bool := m.getLsbD 6
def msrIR (m : Word) : Bool := m.getLsbD 5
def msrDR (m : Word) : Bool := m.getLsbD 4
def msrRI (m : Word) : Bool := m.getLsbD 1
def msrLE (m : Word) : Bool := m.getLsbD 0

/-- The floating-point exception modes of Table 2-9 (R65). -/
inductive FpMode where
  | disabled
  | impreciseNonrecoverable
  | impreciseRecoverable
  | precise
  deriving DecidableEq, Repr

/-- The mode FE0 and FE1 select (R65). -/
def msrFpMode (m : Word) : FpMode :=
  match msrFE0 m, msrFE1 m with
  | false, false => .disabled
  | false, true => .impreciseNonrecoverable
  | true, false => .impreciseRecoverable
  | true, true => .precise

/-- The MSR's reserved bits on the implementation: those of R63, and those of the optional functions that are not
implemented (R67). -/
def msrReserved (p : Params) : Word :=
  (if is64 p then 0x5FFFFFFFFFFA008C else 0x00000000FFFA008C) |||
    (if is64 p && !hasBridge p then 0x2000000000000000 else 0) ||| (if p.hasPow then 0 else 0x00040000) |||
    (if p.hasSe then 0 else 0x00000400) ||| (if p.hasBe then 0 else 0x00000200)

/-- The MSR bits an exception saves in SRR1 and a return loads from it (R95). -/
def savedMask (p : Params) : Word := if is64 p then 0xFFFFFFFF87C0FFFF else 0x0000000087C0FFFF

/-- The MSR bits whose alteration by **mtmsr**/**mtmsrd** needs a context-synchronizing instruction after it: SF, PR,
FP, ME, FE0, FE1, IR, DR, and SE and BE where they are implemented (R404). -/
def windowedBits (p : Params) : Word :=
  0x8000000000007930 ||| (if p.hasSe then 0x0400 else 0) ||| (if p.hasBe then 0x0200 else 0)

end Sys2Proof.Machine
end

