-- ==== Sys2Proof/Machine/State.lean ====
section
/-! DEFINITION. The state of the machine, and the reasons a step can stop.

State holds every piece of architectural state the spec names (10_state.md R116), the windows of
70_reset_and_hazards.md R402, and the host's inputs and outputs as lists.  It is plain data. -/

namespace Sys2Proof.Machine

open Sys2Proof.Config

/-- Why the machine stops with no later state although the machine itself is defined. -/
inductive Fault where
  /-- A machine check request at a boundary with MSR[ME] = 0: the processor enters checkstop (R354, U37).  Raised by
  the boundary of a step.  Safe: no later state exists. -/
  | checkstop
  deriving DecidableEq, Repr

/-- Why the model gives no next state: the behaviour is outside what the spec defines (the `refuse` of R10).  Every
one of these is safe: the hardware goes on where the model stops. -/
inductive Refusal where
  /-- An instruction of the table that has no meaning yet.  Raised by no arm. -/
  | notModelled (mnemonic : String)
  /-- The fetched word matches no row of the table (R157, R158).  Raised by the step. -/
  | undecodedWord (w : Word32)
  /-- The instruction does not exist on the configured implementation, so that its word is not decoded there (R158;
  R197, R198, R207, R274, R276, R284, R287); for a segment register move, where `UNDEF_SPR` asks for `refuse` (U2).
  Raised by the instruction's meaning. -/
  | absentOnImplementation
  /-- A segment register move on a 64-bit implementation with the bridge: how it maps onto SLB entries is in no source
  (R207).  Raised by the instruction's meaning. -/
  | segmentBridge
  /-- An invalid instruction form (D24): **bcctr** with BO{2} = 0 (R260), **lswx** whose loaded range includes rA or rB
  (R308), a compare with L = 1 on a 32-bit implementation (R240).  Raised by the instruction's meaning. -/
  | invalidForm
  /-- **mfspr**, **mtspr** or **mftb** with an undefined number where `UNDEF_SPR` asks for `refuse` (R184, R191). -/
  | undefinedSpr (n : SprNum)
  /-- **mtspr** to an IBATnL with the W or the G bit set: boundedly undefined (R76, U16). -/
  | ibatUndefinedBits
  /-- **mtspr** to SDR1 with MSR[IR] = 1 or MSR[DR] = 1: the results are undefined (R408, U27). -/
  | sdr1WhileTranslating
  /-- MSR[IR] or MSR[DR] is or would become one: the translation algorithms are in no source (R123, D9). -/
  | addressTranslation
  /-- MSR[LE] is or would become one: little-endian mode is defined in no source (R124, D8). -/
  | littleEndianMode
  /-- With `HAS_POW`, MSR[POW] is or would become one: no wake-up rule exists (R370, D20). -/
  | powerManagement
  /-- A misaligned **lwz** where `MISALIGNED` asks for `refuse` (R126, D10). -/
  | misalignedLoad
  /-- A misaligned **eciwx** or **ecowx** (R284, R286, D10). -/
  | misalignedExternalControl
  /-- An access or a fetch outside `MEM_MAP` (R143, D29). -/
  | noMemory
  /-- FPSCR[FEX] = 1 while MSR[FE0] or MSR[FE1] is one after an instruction: the floating-point enabled exception is
  due at a time no source gives (R231 (f), R345, D26). -/
  | fpEnabledException
  /-- A fetch from a location stored to since the last context-synchronizing event (R141, D16).  Raised by the step. -/
  | unsynchronizedFetch
  /-- While the window of MSR[SF] is open: a fetch at or above 2^32 (R418, note 9), or an instruction that is followed
  by the next one in memory, whose address differs between the old and the new context (U28).  Raised by the step. -/
  | implicitBranch
  deriving DecidableEq, Repr

/-- Memory: (address, byte) pairs, addresses strictly rising, no byte equal to `memDefault` (`memWf`). -/
abbrev Memory := List Host.Cell

/-- What an unlisted address reads as.  DESIGN CHOICE, log entry 6. -/
def memDefault : Byte := 0

/-- The open synchronization windows `open(c)` of R402, one for each context component of the tables R414 and R415. -/
structure Windows where
  /-- the MSR bits whose window is open, each at its own position (R404) -/
  msr : Word
  /-- the segment registers whose window is open, SRn at bit n (R406) -/
  sr : BitVec 16
  /-- ASR (R407) -/
  asr : Bool
  /-- SDR1 (R408) -/
  sdr1 : Bool
  /-- the IBAT registers whose window is open, in the order of their SPR numbers (R410) -/
  ibat : BitVec 8
  /-- the DBAT registers whose window is open, in the order of their SPR numbers (R409) -/
  dbat : BitVec 8
  /-- the values the EAR had since its window was opened, the latest first; empty when the window is closed (R411) -/
  ear : List Word32
  /-- SLB entries invalidated and not yet synchronized (R412) -/
  slb : Bool
  /-- TLB entries invalidated and not yet synchronized (R412) -/
  tlb : Bool
  deriving DecidableEq, Repr

/-- No window is open. -/
def Windows.closed : Windows where
  msr := 0
  sr := 0
  asr := false
  sdr1 := false
  ibat := 0
  dbat := 0
  ear := []
  slb := false
  tlb := false

/-- What the platform does at one instruction boundary: the number of timer ticks (`TB_TICK`, R360) and the three
request inputs (R354). -/
structure BoundaryInput where
  ticks : Nat
  extInt : Bool
  mcIn : Bool
  sresetIn : Bool
  deriving DecidableEq, Repr

/-- A boundary for which the state lists no input: one tick, the spec's suggested default (D7), and no request (U37).
Log entry 8. -/
def BoundaryInput.default : BoundaryInput where
  ticks := 1
  extInt := false
  mcIn := false
  sresetIn := false

/-- One listed point of the host function `device_in` (R284, D21): the word device `rid` answers for address `pa`. -/
structure DeviceAnswer where
  rid : BitVec 6
  pa : Word
  word : Word32
  deriving DecidableEq, Repr

/-- One transfer an **ecowx** has sent to `device_out` (R286, D21). -/
structure DeviceWrite where
  rid : BitVec 6
  pa : Word
  word : Word32
  deriving DecidableEq, Repr

/-- The state.  A register of `W` bits is a `Word` (see Word.lean). -/
structure State where
  /-- the implementation's parameters, among them the PVR's value; no step changes them (R6, R69) -/
  cfg : Params
  /-- GPR0-GPR31 (R22) -/
  gpr : Vector Word 32
  /-- FPR0-FPR31 (R23) -/
  fpr : Vector (BitVec 64) 32
  /-- the condition register (R26) -/
  cr : Word32
  /-- the FPSCR without FEX and VX, which are computed: their two positions hold zero (R30-R34) -/
  fpscr : Word32
  /-- the XER (R46) -/
  xer : Word32
  /-- the link register (R48) -/
  lr : Word
  /-- the count register (R51) -/
  ctr : Word
  /-- the address of the instruction to be executed (R53) -/
  pc : Word
  /-- the machine state register (R63) -/
  msr : Word
  /-- the time base, TBU || TBL (R55) -/
  tb : BitVec 64
  /-- the decrementer (R99) -/
  dec : Word32
  /-- the decrementer exception request `dec_pending` (R110) -/
  decPending : Bool
  /-- IBAT0U, IBAT0L, ..., IBAT3U, IBAT3L (R70) -/
  ibat : Vector Word 8
  /-- DBAT0U, DBAT0L, ..., DBAT3U, DBAT3L (R70) -/
  dbat : Vector Word 8
  /-- SDR1 (R77) -/
  sdr1 : Word
  /-- the ASR, 64-bit implementations only (R81) -/
  asr : Word
  /-- SR0-SR15, 32-bit implementations only (R84) -/
  sr : Vector Word32 16
  /-- the data address register (R88) -/
  dar : Word
  /-- the DSISR (R91) -/
  dsisr : Word32
  /-- SPRG0-SPRG3 (R89) -/
  sprg : Vector Word 4
  /-- SRR0 (R92) -/
  srr0 : Word
  /-- SRR1 (R95) -/
  srr1 : Word
  /-- the data address breakpoint register, optional (R103) -/
  dabr : Word
  /-- the external access register, optional (R105) -/
  ear : Word32
  /-- the FPECR, optional (R96) -/
  fpecr : Word32
  /-- the PIR, optional (R107) -/
  pir : Word32
  /-- physical memory (R129) -/
  mem : Memory
  /-- the open synchronization windows (R402) -/
  windows : Windows
  /-- the physical addresses stored to since the last context-synchronizing event (R141, D16) -/
  storedSince : List Nat
  /-- the platform's inputs at the boundaries to come, the next one first (R354, R360) -/
  inputs : List BoundaryInput
  /-- the listed points of the host function `device_in` (R284) -/
  deviceIn : List DeviceAnswer
  /-- what **ecowx** has sent to `device_out`, the latest last (R286) -/
  deviceOut : List DeviceWrite
  /-- the model's own: how many exceptions have been entered -/
  excCount : Nat
  /-- the model's own: the number that selects the free values, advanced by every step -/
  freeCtr : Nat
  deriving DecidableEq, Repr

/-- The MSR's reserved bits, those of unimplemented optional functions aside (R63, R68). -/
def msrReservedBits : Impl → Word
  | .w32 => 0x00000000FFFA008C
  | .w64 => 0x5FFFFFFFFFFA008C

/-- The MSR at power-up (R68, R381).  The bits the table leaves unspecified hold a one, which makes them read as a free
value (R20, U24); log entry 4. -/
def msrAtReset (p : Params) : Word :=
  (match p.impl with | .w32 => 0 | .w64 => 0xA000000000000000) ||| (if p.msrResetIp then 0x40 else 0) |||
    msrReservedBits p.impl

/-- The address of the first instruction: the system reset vector with the prefix MSR[IP] selects (R382). -/
def pcAtReset (p : Params) : Word :=
  match p.msrResetIp, p.impl with
  | false, _ => 0x100
  | true, .w32 => 0x00000000FFF00100
  | true, .w64 => 0xFFFFFFFFFFF00100

/-- The state at power-up of the implementation `p`: the MSR and the pc as the spec says; every other register zero in
its defined bits (log entry 4) and one in its reserved bits, so that a reserved bit nothing has written reads as a
free value (R20, D15); nothing listed in memory. -/
def State.powerUp (p : Params) : State where
  cfg := p
  gpr := Vector.replicate 32 0
  fpr := Vector.replicate 32 0
  cr := 0
  fpscr := 0x00000800
  xer := 0x1FFFFF80
  lr := 0
  ctr := 0
  pc := pcAtReset p
  msr := msrAtReset p
  tb := 0
  dec := 0
  decPending := false
  ibat := #v[0x1E000, 0x1FF84, 0x1E000, 0x1FF84, 0x1E000, 0x1FF84, 0x1E000, 0x1FF84]
  dbat := #v[0x1E000, 0x1FF84, 0x1E000, 0x1FF84, 0x1E000, 0x1FF84, 0x1E000, 0x1FF84]
  sdr1 := match p.impl with | .w32 => 0xFE00 | .w64 => 0x3FFE0
  asr := match p.impl with | .w32 => 0 | .w64 => (if p.hasBridge then 0xFFE else 0xFFF)
  sr := Vector.replicate 16 0x0F000000
  dar := 0
  dsisr := 0
  sprg := Vector.replicate 4 0
  srr0 := 0
  srr1 := 0
  dabr := 0
  ear := 0x7FFFFFC0 ||| (0x3F &&& ~~~((1#32 <<< p.ridBits.val) - 1))
  fpecr := 0
  pir := 0
  mem := []
  windows := Windows.closed
  storedSince := []
  inputs := []
  deviceIn := []
  deviceOut := []
  excCount := 0
  freeCtr := 0

/-- The machine right after reset, with the parameters of `Params.atReset` (log entry 3). -/
def State.reset : State := State.powerUp Params.atReset

end Sys2Proof.Machine
end

