-- ==== Sys2Proof/Machine/Ops.lean ====
section
/-! DEFINITION. The operations every instruction is built from: outcomes, registers, memory, the context an
instruction sees, and taking an exception and returning from one. -/

namespace Sys2Proof.Machine

open Sys2Proof.Config

/-- What an instruction, or a step, answers. -/
abbrev Out := Host.Outcome State Fault Refusal

/-- Go on with the next state, where there is one. -/
def andThen (o : Out) (f : State → Out) : Out :=
  match o with
  | .next s => f s
  | .fault r => .fault r
  | .refused r => .refused r

/-- The value the spec leaves free at a place, at this point of the run (R10, D17). -/
def freeValue (site : FreeSite) (s : State) : Word := free site s.freeCtr

/-! ## General registers (R22) -/

def readGpr (s : State) (r : GprNum) : Word := s.gpr[r.toNat]'r.isLt

/-- GPR[r] written; the register keeps the value modulo 2^W (R10). -/
def writeGpr (s : State) (r : GprNum) (v : Word) : State :=
  { s with gpr := s.gpr.set r.toNat (toWidth s.cfg v) r.isLt }

def readFpr (s : State) (r : FprNum) : BitVec 64 := s.fpr[r.toNat]'r.isLt

/-- FPR[r] written, all 64 bits on every implementation (R23). -/
def writeFpr (s : State) (r : FprNum) (v : BitVec 64) : State := { s with fpr := s.fpr.set r.toNat v r.isLt }

def writeCr (s : State) (v : Word32) : State := { s with cr := v }

def writeCrField (s : State) (f : FieldNum) (v : BitVec 4) : State := { s with cr := setField4 s.cr f v }

def writeXer (s : State) (v : Word32) : State := { s with xer := v }

/-- FPSCR written; FEX and VX are not stored (R33, R34). -/
def setFpscr (s : State) (v : Word32) : State := { s with fpscr := v &&& ~~~fpscrComputedBits }

/-- The XER as an instruction reads it (R20). -/
def visibleXer (s : State) : Word32 :=
  lowWord (readReserved (zextWord s.xer) (zextWord xerReserved) (freeValue .reservedBits s))

/-- The FPSCR as an instruction reads it: FEX and VX computed (R33, R34), the reserved bit by R20. -/
def visibleFpscr (s : State) : Word32 :=
  lowWord (readReserved (zextWord (fpscrComputed s.fpscr)) (zextWord fpscrReserved) (freeValue .reservedBits s))

/-- The MSR as an instruction reads it (R20, R67, R194). -/
def visibleMsr (s : State) : Word := readReserved s.msr (msrReserved s.cfg) (freeValue .reservedBits s)

/-! ## The context an instruction executes in (R400 to R404) -/

/-- The MSR whose context the present instruction sees: for each bit whose window is open the old or the new value,
by the free choice of R402; the register itself where no window is open. -/
def contextMsr (s : State) : Word :=
  if s.windows.msr = 0 then s.msr else s.msr ^^^ (s.windows.msr &&& freeValue .window s)

/-- `MODE64` (R10): 64-bit mode of a 64-bit implementation. -/
def mode64 (s : State) : Bool := is64 s.cfg && msrSF (contextMsr s)

/-- The processor is at user level (R362). -/
def userMode (s : State) : Bool := msrPR (contextMsr s)

/-- An effective address: modulo 2^W, its high-order half zero in 32-bit mode (R122, D23). -/
def effective (s : State) (a : Word) : Word := if mode64 s then a else low32 a

/-- The address of the instruction that follows (R151). -/
def nextPc (s : State) : Word := effective s (s.pc + 4)

/-- Go on to the instruction that follows (R151). -/
def advance (s : State) : State := { s with pc := nextPc s }

/-- A context-synchronizing event: every window closes (R402), and fetches see every earlier store (D16). -/
def contextSync (s : State) : State := { s with windows := Windows.closed, storedSince := [] }

/-- A mode no source defines, that the MSR value would select: powered down (R370), little-endian (R124) or with
address translation on (R123). -/
def unsupportedMsr (p : Params) (m : Word) : Option Refusal :=
  if p.hasPow && msrPOW m then some .powerManagement
  else if msrLE m then some .littleEndianMode
  else if msrIR m || msrDR m then some .addressTranslation
  else none

/-! ## Taking an exception (R330 to R338) -/

/-- The causes of the program exception (R340). -/
inductive ProgramCause where
  | floatingPointEnabled
  | illegalInstruction
  | privilegedInstruction
  | trap
  deriving DecidableEq, Repr

/-- The exceptions of R320 and R332. -/
inductive Exception where
  | systemReset
  | machineCheck
  | dsi
  | isi
  | external
  | alignment
  | program (cause : ProgramCause)
  | fpUnavailable
  | decrementer
  | systemCall
  | trace
  deriving DecidableEq, Repr

/-- The vector offsets (R332). -/
def Exception.offset : Exception → Word
  | .systemReset => 0x00100
  | .machineCheck => 0x00200
  | .dsi => 0x00300
  | .isi => 0x00400
  | .external => 0x00500
  | .alignment => 0x00600
  | .program _ => 0x00700
  | .fpUnavailable => 0x00800
  | .decrementer => 0x00900
  | .systemCall => 0x00C00
  | .trace => 0x00D00

/-- The exception-specific information in SRR1 (R336). -/
def Exception.info : Exception → Word
  | .program .floatingPointEnabled => 0x00100000
  | .program .illegalInstruction => 0x00080000
  | .program .privilegedInstruction => 0x00040000
  | .program .trap => 0x00020000
  | _ => 0

/-- The vector's address: the offset with the prefix MSR[IP] selects, sign-extended to W bits (R332). -/
def vector (p : Params) (msr : Word) (e : Exception) : Word :=
  toWidth p ((if msrIP msr then 0xFFFFFFFFFFF00000 else 0) ||| e.offset)

/-- POW, EE, PR, FP, FE0, SE, BE, FE1, IR, DR and RI: the bits every entry clears (R330, D11). -/
def entryClears : Word := 0x000000000004EF32

/-- The MSR an exception establishes (R330, D11). -/
def entryMsr (p : Params) (e : Exception) (m : Word) : Word :=
  let cleared := m &&& ~~~(entryClears ||| (if e = .machineCheck then 0x1000 else 0))
  let le := withBits cleared 1 (msrILE m)
  if is64 p then withBits le 0x8000000000000000 (if hasBridge p then msrISF m else true) else le

/-- What an exception saves in SRR1: the saved bits of the MSR, and the exception-specific information (R95, R330).
The MSR's reserved bits are read as R20 has them; DEDUCED, log entry 5. -/
def savedSrr1 (e : Exception) (s : State) : Word := (visibleMsr s &&& savedMask s.cfg) ||| e.info

/-- The exception is context synchronizing: any but a system reset or machine check with MSR[RI] = 0 (R338). -/
def synchronizes (e : Exception) (s : State) : Bool :=
  !(e == .systemReset || e == .machineCheck) || msrRI s.msr

/-- The state after taking exception `e`, which saves the address `resume` (R330).  The pc takes the vector as R332 writes
it.  DESIGN CHOICE, log entry 30: where the handler of a 64-bit implementation starts in 32-bit mode (the bridge with
ISF = 0) and IP = 1, the pc holds R332's 64-bit address and every fetch, the first one too, is made at its low-order
word, as R122 has it of each effective address. -/
def entered (e : Exception) (resume : Word) (s : State) : State :=
  let t := { s with
    srr0 := effective s resume
    srr1 := savedSrr1 e s
    msr := entryMsr s.cfg e s.msr
    pc := vector s.cfg s.msr e
    excCount := s.excCount + 1 }
  if synchronizes e s then contextSync t else t

/-- Taking an exception (R330).  With MSR[ILE] = 1 the handler would run little-endian, which no source defines (D8). -/
def enter (e : Exception) (resume : Word) (s : State) : Out :=
  if msrILE s.msr then .refused .littleEndianMode else .next (entered e resume s)

/-- An exception the present instruction causes: SRR0 addresses the instruction (R334). -/
def raise (e : Exception) (s : State) : Out := enter e s.pc s

/-- The DSISR's cause bits (R342): a DABR match, external control with EAR[E] = 0, and the mark of a store. -/
def dsisrDabr : Word32 := 0x00400000
def dsisrExternalControl : Word32 := 0x00100000
def dsisrStore : Word32 := 0x02000000

/-- Whether a data access is a load or a store (R104). -/
inductive Access where
  | load
  | store
  deriving DecidableEq, Repr

/-- The registers a DSI exception writes besides those of entry (R342, R88). -/
def dsiRegisters (kind : Access) (cause : Word32) (ea : Word) (s : State) : State :=
  { s with
    dar := effective s ea
    dsisr := cause ||| (match kind with | .load => 0 | .store => dsisrStore) }

/-- `raise DSI(EA)` (R342). -/
def raiseDsi (kind : Access) (cause : Word32) (ea : Word) (s : State) : Out :=
  raise .dsi (dsiRegisters kind cause ea s)

/-- The registers an alignment exception writes besides those of entry; the DSISR is left undefined (R343). -/
def alignmentRegisters (ea : Word) (s : State) : State :=
  { s with dar := effective s ea, dsisr := lowWord (freeValue .dsisrAlignment s) }

/-- The alignment exception (R343). -/
def raiseAlignment (ea : Word) (s : State) : Out := raise .alignment (alignmentRegisters ea s)

/-! ## Returning from an exception (R95, R272, R274) -/

/-- Return to SRR0 with the bits of `mask` loaded into the MSR from SRR1, the others kept: the new MSR decides the mode the address is
formed in (R274, C17); the return is context synchronizing. -/
def returnFromException (mask : Word) (s : State) : Out :=
  let m := merge s.msr s.srr1 mask
  match unsupportedMsr s.cfg m with
  | some r => .refused r
  | none =>
    let target := clearLow2 s.srr0
    .next (contextSync { s with
      msr := m
      pc := if is64 s.cfg && msrSF m then target else low32 target })

/-! ## Conditions an instruction checks first -/

/-- A supervisor-level instruction: at user level it takes the privileged instruction program exception and has no
effect (R340 (a), D28). -/
def supervisorOnly (s : State) (k : Out) : Out :=
  if userMode s then raise (.program .privilegedInstruction) s else k

/-- An instruction that exists on some implementations only: elsewhere its word is not decoded (R158). -/
def presentIf (b : Bool) (k : Out) : Out := if b then k else .refused .absentOnImplementation

/-- The treatment of ruling U2, chosen by `UNDEF_SPR` (R184, D4): a program exception, or the refusal `r`.  `supervisor`
is what the privilege bit says where the parameter is `byPrivilegeBit`. -/
def undefinedTreatment (supervisor : Bool) (r : Refusal) (s : State) : Out :=
  match s.cfg.undefSpr with
  | .illegal => raise (.program .illegalInstruction) s
  | .privileged => raise (.program .privilegedInstruction) s
  | .refuse => .refused r
  | .byPrivilegeBit =>
    if userMode s then
      raise (.program (if supervisor then .privilegedInstruction else .illegalInstruction)) s
    else .refused r

/-- A floating-point instruction: with MSR[FP] = 0 it takes the floating-point unavailable exception (R344). -/
def fpAvailable (s : State) (k : Out) : Out := if msrFP (contextMsr s) then k else raise .fpUnavailable s

/-- A floating-point enabled exception is due: FEX is set and the mode is not `disabled` (R231 (f), R345). -/
def fpTrapDue (s : State) : Bool :=
  fpscrFEX s.fpscr && (msrFpMode (contextMsr s) != .disabled)

/-- The end of an FPSCR instruction: CR1 recorded (R212), and the stop where a floating-point enabled exception is
due, whose time no source gives (D26). -/
def fpComplete (rc : Bool) (s : State) : Out :=
  if fpTrapDue s then .refused .fpEnabledException
  else .next (if rc then writeCrField s 1 (field4 (visibleFpscr s) 0) else s)

/-! ## Memory (R124, R129, R143) -/

/-- The canonical form: addresses strictly rising, no byte equal to what an unlisted address reads as. -/
def Memory.wf : Memory → Bool
  | [] => true
  | (a, v) :: m => v != memDefault && (match m with | [] => true | (b, _) :: _ => decide (a < b)) && Memory.wf m

/-- The byte at an address. -/
def memRead : Memory → Nat → Byte
  | [], _ => memDefault
  | (b, w) :: m, a => if a = b then w else memRead m a

/-- The byte at an address replaced, the canonical form kept. -/
def memWrite : Memory → Nat → Byte → Memory
  | [], a, v => if v = memDefault then [] else [(a, v)]
  | (b, w) :: m, a, v =>
    if a < b then (if v = memDefault then (b, w) :: m else (a, v) :: (b, w) :: m)
    else if a = b then (if v = memDefault then m else (a, v) :: m)
    else (b, w) :: memWrite m a v

/-- Bytes written one after another, each at its own address. -/
def memWriteAll : Memory → List (Nat × Byte) → Memory
  | m, [] => m
  | m, c :: cs => memWriteAll (memWrite m c.1 c.2) cs

/-- The physical address holds memory (`MEM_MAP`, R143). -/
def mapped (p : Params) (a : Nat) : Bool := p.memMap.any (fun r => r.base ≤ a && a < r.base + r.size)

/-- The physical address of byte `k` of a data access: with MSR[DR] = 0 the effective address (R123). -/
def byteAddr (s : State) (ea : Word) (k : Nat) : Nat := (effective s (ea + BitVec.ofNat 64 k)).toNat

/-- The data address breakpoint matches some byte of the access (R104). -/
def dabrMatch (s : State) (kind : Access) (ea : Word) (n : Nat) : Bool :=
  s.cfg.hasDabr && (msrDR (contextMsr s) == s.dabr.getLsbD 2) &&
    (match kind with | .load => s.dabr.getLsbD 0 | .store => s.dabr.getLsbD 1) &&
    (List.range n).any (fun k => effective s (ea + BitVec.ofNat 64 k) >>> 3 == s.dabr >>> 3)

/-- Why the bytes of a data access cannot be transferred (R123, R143, R124); an access of no bytes can. -/
def accessRefusal (s : State) (ea : Word) (n : Nat) : Option Refusal :=
  if n = 0 then none
  else if msrDR (contextMsr s) then some .addressTranslation
  else if !((List.range n).all (fun k => mapped s.cfg (byteAddr s ea k))) then some .noMemory
  else if msrLE (contextMsr s) then some .littleEndianMode
  else none

/-- Steps (3) to (5) of a data access of `n` bytes, then its transfer `k` (R301). -/
def dataAccess (kind : Access) (ea : Word) (n : Nat) (s : State) (k : Out) : Out :=
  if dabrMatch s kind ea n then raiseDsi kind dsisrDabr ea s
  else match accessRefusal s ea n with
    | some r => .refused r
    | none => k

/-- `MemRead(EA + k, 1)`. -/
def loadByte (s : State) (ea : Word) (k : Nat) : Byte := memRead s.mem (byteAddr s ea k)

/-- `MemRead(EA, 4)`, big-endian (R124). -/
def loadWord (s : State) (ea : Word) : Word32 :=
  Decode.wordOfBytes (loadByte s ea 0) (loadByte s ea 1) (loadByte s ea 2) (loadByte s ea 3)

/-- `n` bytes stored from EA upward, byte `k` being `f k`; fetches from there await a context-synchronizing event
(R141, D16). -/
def storeBytes (s : State) (ea : Word) (n : Nat) (f : Nat → Byte) : State :=
  { s with
    mem := memWriteAll s.mem ((List.range n).map (fun k => (byteAddr s ea k, f k)))
    storedSince := (List.range n).map (byteAddr s ea) ++ s.storedSince }

end Sys2Proof.Machine
end

