-- ==== Sys2Proof/Machine/Operands.lean ====
section
/-! DEFINITION. The operand forms: addresses, compare operands, branch conditions and targets, and the registers that
SPR, TBR and segment register numbers name. -/

namespace Sys2Proof.Machine

open Sys2Proof.Config

/-! ## Addresses (R300, R301) -/

/-- `(rA|0)`: a register field of zero denotes the value zero (R300). -/
def orZero (s : State) (rA : GprNum) : Word := if rA = 0 then 0 else readGpr s rA

/-- EA of the form `d(rA)` (R304). -/
def eaDisp (s : State) (rA : GprNum) (d : BitVec 16) : Word := effective s (orZero s rA + sextImm d)

/-- EA of the form `rA,rB` (R284, R308, R310). -/
def eaIndexed (s : State) (rA rB : GprNum) : Word := effective s (orZero s rA + readGpr s rB)

/-- The address is a multiple of four. -/
def wordAligned (ea : Word) : Bool := ea &&& 3 == 0

/-! ## Integer compares (R240 to R243) -/

/-- A register operand of a signed compare: the low-order word sign-extended, or with L = 1 the whole register. -/
def signedOperand (s : State) (l : Bool) (r : GprNum) : Word :=
  if l then readGpr s r else sextWord (lowWord (readGpr s r))

/-- A register operand of an unsigned compare. -/
def unsignedOperand (s : State) (l : Bool) (r : GprNum) : Word :=
  if l then readGpr s r else zextWord (lowWord (readGpr s r))

/-- L = 1 on a 32-bit implementation is an invalid form (R240, D24). -/
def compareFormOk (s : State) (l : Bool) : Bool := !l || is64 s.cfg

/-- The end of a compare: the field written, or the stop of an invalid form. -/
def compareInto (s : State) (crfD : FieldNum) (l : Bool) (field : BitVec 4) : Out :=
  if compareFormOk s l then .next (advance (writeCrField s crfD field)) else .refused .invalidForm

/-! ## CR0, OV and CA by mode (R210, R214, R216, R218, D23)

A recording, overflow or carry rule is over `W` bits, in 32-bit mode of a 64-bit implementation over the low-order
words; on a 32-bit implementation `W` is 32, so that `mode64` decides in every case. -/

/-- CR0 recorded from a result (R210, R214). -/
def recordCr0 (s : State) (result : Word) : State :=
  writeCrField s 0
    (if mode64 s then cr0Record 64 result (xerSO s.xer) else cr0Record 32 (lowWord result) (xerSO s.xer))

/-- CR0 recorded where a portion of the result is undefined: any three bits, and SO (R211, D17). -/
def recordCr0Undefined (s : State) : State :=
  writeCrField s 0 (cr0Undefined ((freeValue .cr0 s).setWidth 3) (xerSO s.xer))

/-- CR0 recorded by **mulhw**, **mulhwu**, **divw** and **divwu** with Rc = 1: undefined in 64-bit mode (R64 (d), R211),
elsewhere as by every other integer instruction (R210). -/
def recordCr0Word (s : State) (result : Word) : State :=
  if mode64 s then recordCr0Undefined s else recordCr0 s result

/-- The carry out of the msb of `a + b + c` (R218). -/
def carryOf (s : State) (a b : Word) (c : Bool) : Bool :=
  if mode64 s then carryOut 64 a b c else carryOut 32 (lowWord a) (lowWord b) c

/-- The overflow of `a + b + c` (R216). -/
def overflowOf (s : State) (a b : Word) (c : Bool) : Bool :=
  if mode64 s then addOverflow 64 a b c else addOverflow 32 (lowWord a) (lowWord b) c

/-- CA recorded by a carrying or extended add or subtract-from that computes `a + b + c` (R218). -/
def recordCa (s : State) (a b : Word) (c : Bool) : State := writeXer s (writeCA s.xer (carryOf s a b c))

/-- OV, and SO with it, recorded with OE = 1 by an add, subtract-from or negate that computes `a + b + c` (R215, R216). -/
def recordOv (s : State) (a b : Word) (c : Bool) : State := writeXer s (writeOV s.xer (overflowOf s a b c))

/-! ## Branches (R250 to R256) -/

/-- Bits BO{0} to BO{3} (R251). -/
def bo0 (bo : BitVec 5) : Bool := bo.getLsbD 4
def bo1 (bo : BitVec 5) : Bool := bo.getLsbD 3
def bo2 (bo : BitVec 5) : Bool := bo.getLsbD 2
def bo3 (bo : BitVec 5) : Bool := bo.getLsbD 1

/-- The CTR after the decrement that BO asks for (R252): the register's whole width wraps (R52). -/
def branchCtr (s : State) (bo : BitVec 5) : Word := if bo2 bo then s.ctr else toWidth s.cfg (s.ctr - 1)

/-- `ctr_ok` (R252, R254): the test is made after the decrement, in 32-bit mode on the low-order word. -/
def branchCtrOk (s : State) (bo : BitVec 5) : Bool :=
  bo2 bo || (effective s (branchCtr s bo) != 0) != bo3 bo

/-- `cond_ok` (R252). -/
def branchCondOk (s : State) (bo bi : BitVec 5) : Bool := bo0 bo || srcBitAt s.cr bi == bo1 bo

/-- `taken` (R252). -/
def branchTaken (s : State) (bo bi : BitVec 5) : Bool := branchCtrOk s bo && branchCondOk s bo bi

/-- The target of **b** and **bc**: a displacement from the pc, or with AA an address (R255). -/
def relativeTarget (s : State) (aa : Bool) (disp : Word) : Word := effective s ((if aa then 0 else s.pc) + disp)

/-- The target a register supplies: its two low-order bits are ignored (R255). -/
def registerTarget (s : State) (r : Word) : Word := effective s (clearLow2 r)

/-- The LR with LK: the address of the next instruction, whether or not the branch is taken (R256). -/
def linked (s : State) (lk : Bool) : Word := if lk then nextPc s else s.lr

/-- What a branch writes: the CTR, the LR and the pc, all computed from the state before it. -/
def branchTo (s : State) (ctr : Word) (lk taken : Bool) (target : Word) : State :=
  { s with ctr := ctr, lr := linked s lk, pc := if taken then target else nextPc s }

/-! ## Special-purpose registers (R114) -/

/-- The registers that **mfspr** or **mtspr** can name (R114). -/
inductive Spr where
  | xer
  | lr
  | ctr
  | dsisr
  | dar
  | dec
  | sdr1
  | srr0
  | srr1
  | sprg (i : Fin 4)
  | asr
  | ear
  | tbl
  | tbu
  | pvr
  | ibat (i : Fin 8)
  | dbat (i : Fin 8)
  | dabr
  | fpecr
  | pir
  deriving DecidableEq, Repr

/-- The numbers of R114.  BAT registers stand in the order 0U, 0L, 1U, ..., 3L. -/
def sprNumbers : List (Nat × Spr) :=
  [(1, .xer), (8, .lr), (9, .ctr), (18, .dsisr), (19, .dar), (22, .dec), (25, .sdr1), (26, .srr0), (27, .srr1),
   (272, .sprg 0), (273, .sprg 1), (274, .sprg 2), (275, .sprg 3), (280, .asr), (282, .ear), (284, .tbl),
   (285, .tbu), (287, .pvr),
   (528, .ibat 0), (529, .ibat 1), (530, .ibat 2), (531, .ibat 3),
   (532, .ibat 4), (533, .ibat 5), (534, .ibat 6), (535, .ibat 7),
   (536, .dbat 0), (537, .dbat 1), (538, .dbat 2), (539, .dbat 3),
   (540, .dbat 4), (541, .dbat 5), (542, .dbat 6), (543, .dbat 7),
   (1013, .dabr), (1022, .fpecr), (1023, .pir)]

/-- The register a number names, on any implementation. -/
def sprOf (n : SprNum) : Option Spr := (sprNumbers.find? (fun e => e.1 == n.toNat)).map (·.2)

/-- XER, LR and CTR are accessible at both levels, every other SPR in supervisor mode only (R181). -/
def Spr.userLevel : Spr → Bool
  | .xer | .lr | .ctr => true
  | _ => false

/-- The implementation has the register (R184). -/
def sprPresent (p : Params) : Spr → Bool
  | .asr => is64 p
  | .ear => p.hasEar
  | .dabr => p.hasDabr
  | .fpecr => p.hasFpecr
  | .pir => p.hasPir
  | _ => true

/-- **mfspr** reaches every register but the two halves of the time base (R184). -/
def Spr.readable : Spr → Bool
  | .tbl | .tbu => false
  | _ => true

/-- **mtspr** reaches every register but the PVR (R184). -/
def Spr.writable : Spr → Bool
  | .pvr => false
  | _ => true

/-- The register **mfspr** reads by a number: none where the number is undefined (R184). -/
def readableSpr (p : Params) (n : SprNum) : Option Spr :=
  (sprOf n).filter (fun r => sprPresent p r && r.readable)

/-- The register **mtspr** writes by a number: none where the number is undefined (R184). -/
def writableSpr (p : Params) (n : SprNum) : Option Spr :=
  (sprOf n).filter (fun r => sprPresent p r && r.writable)

/-- What an undefined SPR or TBR number does: the parameter `UNDEF_SPR` (R184, R191, D4); the privilege bit of a number
is the one of weight 16 (R155). -/
def undefinedNumber (n : SprNum) (s : State) : Out :=
  undefinedTreatment (n.getLsbD 4) (.undefinedSpr n) s

/-- The reserved bits of an upper BAT register (R71). -/
def batUpperReserved : Word := 0x1E000

/-- The reserved bits of a lower BAT register (R72). -/
def batLowerReserved : Word := 0x1FF84

/-- The reserved bits of the `i`-th BAT register of a group: upper and lower registers alternate (R114). -/
def batReserved (i : Fin 8) : Word := if i.val % 2 = 0 then batUpperReserved else batLowerReserved

/-- The reserved bits of SDR1 (R77, R79). -/
def sdr1Reserved (p : Params) : Word := if is64 p then 0x3FFE0 else 0xFE00

/-- The reserved bits of the ASR: with the bridge bit 63 is V (R81, R83). -/
def asrReserved (p : Params) : Word := if hasBridge p then 0xFFE else 0xFFF

/-- The EAR's reserved bits: bits 1-25, and the RID bits the implementation does not support (R105). -/
def earReserved (p : Params) : Word32 := 0x7FFFFFC0 ||| (0x3F &&& ~~~((1#32 <<< p.ridBits.val) - 1))

/-- The value **mfspr** places in a GPR: a 32-bit register zero-extended (R183), reserved bits by R20. -/
def readSpr (s : State) (r : Spr) : Word :=
  let visible := fun stored reserved => readReserved stored reserved (freeValue .reservedBits s)
  match r with
  | .xer => zextWord (visibleXer s)
  | .lr => s.lr
  | .ctr => s.ctr
  | .dsisr => zextWord s.dsisr
  | .dar => s.dar
  | .dec => zextWord s.dec
  | .sdr1 => visible s.sdr1 (sdr1Reserved s.cfg)
  | .srr0 => s.srr0
  | .srr1 => s.srr1
  | .sprg i => s.sprg[i.val]'i.isLt
  | .asr => visible s.asr (asrReserved s.cfg)
  | .ear => visible (zextWord s.ear) (zextWord (earReserved s.cfg))
  | .tbl => zextWord (s.tb.setWidth 32)
  | .tbu => zextWord (s.tb.extractLsb' 32 32)
  | .pvr => zextWord s.cfg.pvrValue
  | .ibat i => visible (s.ibat[i.val]'i.isLt) (batReserved i)
  | .dbat i => visible (s.dbat[i.val]'i.isLt) (batReserved i)
  | .dabr => s.dabr
  | .fpecr => zextWord s.fpecr
  | .pir => zextWord s.pir

/-- DEC written; a change of its bit 0 from zero to one signals a request (R189, R350). -/
def writeDec (s : State) (v : Word32) : State :=
  { s with dec := v, decPending := s.decPending || (!s.dec.getLsbD 31 && v.getLsbD 31) }

/-- EAR written; a change opens its window (R402, R411). -/
def writeEar (s : State) (v : Word32) : State :=
  { s with
    ear := v
    windows := { s.windows with ear := if v = s.ear then s.windows.ear else s.ear :: s.windows.ear } }

/-- The windows with that of a BAT or segment register opened where its value changes (R402, R404 last line). -/
def openAt {n : Nat} (w : BitVec n) (i : Nat) (changed : Bool) : BitVec n := if changed then w ||| BitVec.twoPow n i else w

/-- **mtspr** to a register, its effect on the machine (R186 to R192, R97, R101).  All 32 bits of the XER are written, OV
without SO (R187); a write of TBL or TBU leaves the other half (R188).  A register of W bits keeps the value modulo 2^W,
a register of 32 bits takes the low-order word (R183). -/
def writeSpr (s : State) (r : Spr) (v : Word) : State :=
  match r with
  | .xer => { s with xer := lowWord v }
  | .lr => { s with lr := toWidth s.cfg v }
  | .ctr => { s with ctr := toWidth s.cfg v }
  | .dsisr => { s with dsisr := lowWord v }
  | .dar => { s with dar := toWidth s.cfg v }
  | .dec => writeDec s (lowWord v)
  | .sdr1 =>
    { s with
      sdr1 := toWidth s.cfg v
      windows := { s.windows with sdr1 := s.windows.sdr1 || toWidth s.cfg v != s.sdr1 } }
  | .srr0 => { s with srr0 := toWidth s.cfg v }
  | .srr1 => { s with srr1 := toWidth s.cfg v }
  | .sprg i => { s with sprg := s.sprg.set i.val (toWidth s.cfg v) i.isLt }
  | .asr => { s with asr := v, windows := { s.windows with asr := s.windows.asr || v != s.asr } }
  | .ear => writeEar s (lowWord v)
  | .tbl => { s with tb := merge s.tb (v &&& 0x00000000FFFFFFFF) 0x00000000FFFFFFFF }
  | .tbu => { s with tb := merge s.tb (v <<< 32) 0xFFFFFFFF00000000 }
  | .pvr => s
  | .ibat i =>
    { s with
      ibat := s.ibat.set i.val (toWidth s.cfg v) i.isLt
      windows := { s.windows with ibat := openAt s.windows.ibat i.val (toWidth s.cfg v != s.ibat[i.val]'i.isLt) } }
  | .dbat i =>
    { s with
      dbat := s.dbat.set i.val (toWidth s.cfg v) i.isLt
      windows := { s.windows with dbat := openAt s.windows.dbat i.val (toWidth s.cfg v != s.dbat[i.val]'i.isLt) } }
  | .dabr => { s with dabr := toWidth s.cfg v }
  | .fpecr => { s with fpecr := lowWord v }
  | .pir => { s with pir := lowWord v }

/-- The values the spec lets no **mtspr** write: the W and G bits of an IBATnL (R76), and SDR1 while translation is on
(R408). -/
def sprWriteRefusal (s : State) (r : Spr) (v : Word) : Option Refusal :=
  match r with
  | .ibat i => if i.val % 2 = 1 && v &&& 0x48 != 0 then some .ibatUndefinedBits else none
  | .sdr1 => if msrIR (contextMsr s) || msrDR (contextMsr s) then some .sdr1WhileTranslating else none
  | _ => none

/-! ## The time base (R190) -/

/-- What **mftb** places in a GPR: none for a number other than 268 and 269 (R190, R191). -/
def readTbr (s : State) (n : SprNum) : Option Word :=
  if n = 268 then some (if is64 s.cfg then s.tb else zextWord (s.tb.setWidth 32))
  else if n = 269 then some (zextWord (s.tb.extractLsb' 32 32))
  else none

/-! ## Segment registers (R84, R200 to R206) -/

/-- The reserved bits of a segment register with T = 0 (R85); with T = 1 every bit is defined (R86). -/
def srReserved (v : Word32) : Word32 := if v.getLsbD 31 then 0 else 0x0F000000

def readSr (s : State) (n : SrNum) : Word :=
  let v := s.sr[n.toNat]'n.isLt
  readReserved (zextWord v) (zextWord (srReserved v)) (freeValue .reservedBits s)

/-- A segment register written; a change opens its window (R402, R406). -/
def writeSr (s : State) (n : SrNum) (v : Word32) : State :=
  { s with
    sr := s.sr.set n.toNat v n.isLt
    windows := { s.windows with sr := openAt s.windows.sr n.toNat (v != s.sr[n.toNat]'n.isLt) } }

/-- An instruction on the segment registers (R200 to R207).  A 32-bit implementation has them; on a 64-bit one without the
bridge the four words get the treatment of U2; with the bridge they exist, at supervisor level (R172, D28), and what
they do to the SLB is in no source (R207).  DESIGN CHOICE, log entry 34. -/
def segmentMove (s : State) (k : Out) : Out :=
  if !is64 s.cfg then supervisorOnly s k
  else if hasBridge s.cfg then supervisorOnly s (.refused .segmentBridge)
  else undefinedTreatment true .absentOnImplementation s

/-- The segment register that the high-order bits of a register's low-order word select (R202, R206). -/
def srIndex (v : Word) : SrNum := v.extractLsb' 28 4

/-! ## External control (R105, R284, R286) -/

/-- The EAR an instruction sees: while its window is open, any value it had since the window was opened (R402).  DESIGN
CHOICE, log entry 31: an instruction before the **mtspr** sees the value before it, whether or not the
context-synchronizing instruction that R411 asks for stands between them; R401 would let it run in either context. -/
def contextEar (s : State) : Word32 :=
  match s.windows.ear with
  | [] => s.ear
  | olds => (s.ear :: olds).getD ((freeValue .earWindow s).toNat % (olds.length + 1)) s.ear

def earEnabled (e : Word32) : Bool := e.getLsbD 31

/-- EAR[RID], of which the implementation supports `RID_BITS` bits (R105). -/
def earRid (p : Params) (e : Word32) : BitVec 6 := e.setWidth 6 &&& ((1#6 <<< p.ridBits.val) - 1)

/-- `device_in(RID, PA)` (R284): the listed answer, or a free one. -/
def deviceRead (s : State) (rid : BitVec 6) (pa : Word) : Word32 :=
  match s.deviceIn.find? (fun d => d.rid == rid && d.pa == pa) with
  | some d => d.word
  | none => deviceWord s.freeCtr rid pa

/-- `device_out(RID, PA, v)` (R286). -/
def deviceSend (s : State) (rid : BitVec 6) (pa : Word) (v : Word32) : State :=
  { s with deviceOut := s.deviceOut ++ [⟨rid, pa, v⟩] }

/-- The checks of external control, then the transfer `k` (R284, R286): alignment, EAR[E], the breakpoint, and
translation.  The physical address is the device's, not memory's, so `MEM_MAP` takes no part. -/
def externalControl (kind : Access) (ea : Word) (s : State) (k : Out) : Out :=
  if !wordAligned ea then .refused .misalignedExternalControl
  else if !earEnabled (contextEar s) then raiseDsi kind dsisrExternalControl ea s
  else if dabrMatch s kind ea 4 then raiseDsi kind dsisrDabr ea s
  else if msrDR (contextMsr s) then .refused .addressTranslation
  else k

end Sys2Proof.Machine
end

