-- ==== Sys2Proof/Machine/Boundary.lean ====
section
/-! DEFINITION. What happens between two instructions: trace, timer ticks, asynchronous exceptions (60_exceptions.md
R345 to R360). -/

namespace Sys2Proof.Machine

open Sys2Proof.Config

/-! ## The end of an instruction -/

/-- The branch instructions, which MSR[BE] traces (R347). -/
def isBranch : Instr → Bool
  | .b _ _ _ | .bc _ _ _ _ _ | .bclr _ _ _ | .bcctr _ _ _ => true
  | _ => false

/-- **rfi**, **rfid** and **sc** are not traced (R347). -/
def isUntraced : Instr → Bool
  | .rfi | .rfid | .sc => true
  | _ => false

/-- A trace exception follows the instruction, by the MSR before it (R347). -/
def traced (i : Instr) (s : State) : Bool :=
  (s.cfg.hasSe && msrSE (contextMsr s) && !isUntraced i) || (s.cfg.hasBe && msrBE (contextMsr s) && isBranch i)

/-- An instruction that takes no exception is followed by the next one in memory: all but the returns, **sc** and a
branch that is taken (R151). -/
def sequential (s : State) : Instr → Bool
  | .b _ _ _ | .sc | .rfi | .rfid => false
  | .bc bo bi _ _ _ | .bclr bo bi _ => !branchTaken s bo bi
  | .bcctr bo bi _ => !branchCondOk s bo bi
  | _ => true

/-- An implicit branch in effective address space: MSR[SF]'s window is open at the instruction or opened by it, and the
address of the next instruction in memory is not the same in both modes (R404 note 9, R418, U28).  DEDUCED, log entry
33. -/
def implicitBranch (i : Instr) (s t : State) : Bool :=
  (s.windows.msr ||| t.windows.msr).getLsbD 63 && sequential s i && s.pc + 4 != low32 (s.pc + 4)

/-- The next free values are drawn: the model's own counter. -/
def drawFree (s : State) : State := { s with freeCtr := s.freeCtr + 1 }

/-- After an instruction that led from `s` to `t`: nothing if it took an exception; else the stop of an implicit branch
(U28) or of a floating-point enabled exception that is due (R345), or the trace exception (R347), which reads reserved
bits afresh (R10). -/
def complete (i : Instr) (s t : State) : Out :=
  if t.excCount ≠ s.excCount then .next t
  else if implicitBranch i s t then .refused .implicitBranch
  else if fpTrapDue t then .refused .fpEnabledException
  else if traced i s then enter .trace t.pc (drawFree t)
  else .next t

/-! ## The timer agent (R360) -/

/-- One tick (R56, R100): the time base counts up, the decrementer down, and a change of DEC{0} from 0 to 1 signals a request. -/
def tick (s : State) : State := { writeDec s (s.dec - 1) with tb := s.tb + 1 }

/-- The ticks of one boundary. -/
def ticks : Nat → State → State
  | 0, s => s
  | n + 1, s => ticks n (tick s)

/-! ## Asynchronous exceptions (R350 to R356) -/

/-- The platform's input at this boundary (R354): the first listed one, or the default. -/
def boundaryInput (s : State) : BoundaryInput :=
  match s.inputs with
  | [] => BoundaryInput.default
  | i :: _ => i

/-- The exception taken at a boundary, at most one, in the order of R356.  A machine check with MSR[ME] = 0 is the
checkstop (R354); a decrementer exception cancels every request signalled so far (R353). -/
def asynchronous (inp : BoundaryInput) (s : State) : Out :=
  if inp.sresetIn then enter .systemReset s.pc s
  else if inp.mcIn then
    (if msrME (contextMsr s) then enter .machineCheck s.pc s else .fault .checkstop)
  else if msrEE s.msr && inp.extInt then enter .external s.pc s
  else if msrEE s.msr && s.decPending then enter .decrementer s.pc { s with decPending := false }
  else .next s

/-- An instruction boundary: the ticks come first, then the check for asynchronous exceptions (R360). -/
def boundary (s : State) : Out :=
  asynchronous (boundaryInput s) (ticks (boundaryInput s).ticks { s with inputs := s.inputs.tail })

/-- What a step does after its instruction `i` led from `s` to `t`. -/
def settle (i : Instr) (s t : State) : Out :=
  andThen (complete i s t) (fun u => andThen (boundary (drawFree u)) (fun v => .next (drawFree v)))

end Sys2Proof.Machine
end

