-- ==== Sys2Proof/Machine/Branch.lean ====
section
/-! DEFINITION. The branches (42_branch.md R257 to R260). -/

namespace Sys2Proof.Machine

/-- **b**, **ba**, **bl**, **bla** (R257). -/
def execB (li : BitVec 24) (aa lk : Bool) (s : State) : Out :=
  .next (branchTo s s.ctr lk true (relativeTarget s aa (sextLI li)))

/-- **bc** and its variants (R258). -/
def execBc (bo bi : BitVec 5) (bd : BitVec 14) (aa lk : Bool) (s : State) : Out :=
  .next (branchTo s (branchCtr s bo) lk (branchTaken s bo bi) (relativeTarget s aa (sextBD bd)))

/-- **bclr**, **bclrl** (R259): the target is the LR before the link. -/
def execBclr (bo bi : BitVec 5) (lk : Bool) (s : State) : Out :=
  .next (branchTo s (branchCtr s bo) lk (branchTaken s bo bi) (registerTarget s s.lr))

/-- **bcctr**, **bcctrl** (R260): a BO that asks for a decrement is an invalid form (D24). -/
def execBcctr (bo bi : BitVec 5) (lk : Bool) (s : State) : Out :=
  if bo2 bo then .next (branchTo s s.ctr lk (branchCondOk s bo bi) (registerTarget s s.ctr))
  else .refused .invalidForm

end Sys2Proof.Machine
end

