-- ==== Sys2Proof/Machine/Compare.lean ====
section
/-! DEFINITION. The integer compares (41_cr_xer_fpscr.md R213, R240 to R243). -/

namespace Sys2Proof.Machine

/-- **cmp crfD,L,rA,rB** (R240). -/
def execCmp (crfD : FieldNum) (l : Bool) (rA rB : GprNum) (s : State) : Out :=
  compareInto s crfD l (compareSigned (signedOperand s l rA) (signedOperand s l rB) (xerSO s.xer))

/-- **cmpi crfD,L,rA,SIMM** (R241). -/
def execCmpi (crfD : FieldNum) (l : Bool) (rA : GprNum) (simm : BitVec 16) (s : State) : Out :=
  compareInto s crfD l (compareSigned (signedOperand s l rA) (sextImm simm) (xerSO s.xer))

/-- **cmpl crfD,L,rA,rB** (R242). -/
def execCmpl (crfD : FieldNum) (l : Bool) (rA rB : GprNum) (s : State) : Out :=
  compareInto s crfD l (compareUnsigned (unsignedOperand s l rA) (unsignedOperand s l rB) (xerSO s.xer))

/-- **cmpli crfD,L,rA,UIMM** (R243). -/
def execCmpli (crfD : FieldNum) (l : Bool) (rA : GprNum) (uimm : BitVec 16) (s : State) : Out :=
  compareInto s crfD l (compareUnsigned (unsignedOperand s l rA) (uimm.setWidth 64) (xerSO s.xer))

end Sys2Proof.Machine
end

