-- ==== Sys2Proof/Machine/CrFpscr.lean ====
section
/-! DEFINITION. Moves into the CR and the FPSCR instructions (41_cr_xer_fpscr.md R222 to R238).

R35 has the new XX be the OR of the old one and the new FI "if the instruction affects FPSCR[FI]", and R234 to R238 give
**mtfsfi**, **mtfsf** and **mtfsb1** no such effect.  DESIGN CHOICE, log entry 35: these three write the bits that
R234 to R238 name and no other, so that a one they write to FI leaves XX as it was or as they write it. -/

namespace Sys2Proof.Machine

/-- **mcrf crfD,crfS** (R222). -/
def execMcrf (crfD crfS : FieldNum) (s : State) : Out :=
  .next (advance (writeCrField s crfD (field4 s.cr crfS)))

/-- **mtcrf CRM,rS** (R224). -/
def execMtcrf (crm : BitVec 8) (rS : GprNum) (s : State) : Out :=
  .next (advance (writeCr s (merge s.cr (lowWord (readGpr s rS)) (fieldsMask crm))))

/-- **mcrxr crfD** (R230): XER{0..3} copied, the reserved bit 3 by R20, and cleared. -/
def execMcrxr (crfD : FieldNum) (s : State) : Out :=
  .next (advance (writeXer (writeCrField s crfD (field4 (visibleXer s) 0)) (s.xer &&& 0x0FFFFFFF)))

/-- The FPSCR after **mcrfs**: the exception bits of the copied field cleared (R232). -/
def clearCopied (f : Word32) (crfS : FieldNum) : Word32 := f &&& ~~~(field4Mask crfS &&& fpscrStickyBits)

/-- **mcrfs crfD,crfS** (R232). -/
def execMcrfs (crfD crfS : FieldNum) (s : State) : Out :=
  fpAvailable s
    (fpComplete false
      (advance (setFpscr (writeCrField s crfD (field4 (visibleFpscr s) crfS)) (clearCopied s.fpscr crfS))))

/-- **mtfsfi crfD,IMM** (R234): written to FI, a one does not set XX (R35, log entry 35). -/
def execMtfsfi (crfD : FieldNum) (imm : BitVec 4) (rc : Bool) (s : State) : Out :=
  fpAvailable s
    (fpComplete rc (advance (setFpscr s (writeFpscr s.fpscr (atField4 crfD imm) (field4Mask crfD)))))

/-- **mtfsf FM,frB** (R235): written to FI, a one does not set XX (R35, log entry 35). -/
def execMtfsf (fm : BitVec 8) (frB : FprNum) (rc : Bool) (s : State) : Out :=
  fpAvailable s
    (fpComplete rc (advance (setFpscr s (writeFpscr s.fpscr (lowWord (readFpr s frB)) (fieldsMask fm)))))

/-- **mtfsb0 crbD** (R236). -/
def execMtfsb0 (crbD : BitVec 5) (rc : Bool) (s : State) : Out :=
  fpAvailable s (fpComplete rc (advance (setFpscr s (writeFpscr s.fpscr 0 (srcBit crbD)))))

/-- **mtfsb1 crbD** (R238): a new exception sets FX as well (R231 (d)); FI, bit 14, does not set XX (R35, log entry 35). -/
def execMtfsb1 (crbD : BitVec 5) (rc : Bool) (s : State) : Out :=
  fpAvailable s
    (fpComplete rc
      (advance (setFpscr s (implicitFX s.fpscr (writeFpscr s.fpscr (srcBit crbD) (srcBit crbD))))))

end Sys2Proof.Machine
end

