-- ==== Sys2Proof/Machine/LoadStore.lean ====
section
/-! DEFINITION. **addi**, **lwz**, **lswx**, **stswx** (44_loads_stores_examples.md R300 to R310). -/

namespace Sys2Proof.Machine

open Sys2Proof.Config

/-- **addi rD,rA,SIMM** (R302): the sum modulo 2^W, in every mode. -/
def execAddi (rD rA : GprNum) (simm : BitVec 16) (s : State) : Out :=
  .next (advance (writeGpr s rD (orZero s rA + sextImm simm)))

/-- Step (2) of a word load: what a misaligned address does is the parameter `MISALIGNED` (R126, D10). -/
def checkAlignment (ea : Word) (s : State) (k : Out) : Out :=
  if wordAligned ea then k
  else match s.cfg.misaligned with
    | .bytewise => k
    | .alignment => raiseAlignment ea s
    | .refuse => .refused .misalignedLoad

/-- **lwz rD,d(rA)** (R304). -/
def execLwz (rD rA : GprNum) (d : BitVec 16) (s : State) : Out :=
  let ea := eaDisp s rA d
  checkAlignment ea s
    (dataAccess .load ea 4 s (.next (advance (writeGpr s rD (zextWord (loadWord s ea))))))

/-- How many registers a string of `n` bytes takes (R308). -/
def stringRegs (n : Nat) : Nat := (n + 3) / 4

/-- The `j`-th register of a string that starts at `r`, wrapping from GPR31 to GPR0 (R308). -/
def stringReg (r : GprNum) (j : Nat) : GprNum := r + BitVec.ofNat 5 j

/-- The invalid forms of **lswx** (R308, D24): an address register is the target or among the registers loaded. -/
def lswxInvalid (rD rA rB : GprNum) (n : Nat) : Bool :=
  rD == rA || rD == rB ||
    (List.range (stringRegs n)).any (fun j => stringReg rD j == rA || stringReg rD j == rB)

/-- Byte `k` of a string of `n` bytes at EA; beyond the string zero. -/
def stringByte (s : State) (ea : Word) (n k : Nat) : Byte := if k < n then loadByte s ea k else 0

/-- The low-order word of the `j`-th register loaded, most significant byte first (R308). -/
def stringWord (s : State) (ea : Word) (n j : Nat) : Word32 :=
  Decode.wordOfBytes (stringByte s ea n (4 * j)) (stringByte s ea n (4 * j + 1)) (stringByte s ea n (4 * j + 2))
    (stringByte s ea n (4 * j + 3))

/-- The registers of a string of `n` bytes loaded from EA (R308). -/
def loadString (s : State) (rD : GprNum) (ea : Word) (n : Nat) : State :=
  (List.range (stringRegs n)).foldl (fun t j => writeGpr t (stringReg rD j) (zextWord (stringWord s ea n j))) s

/-- **lswx rD,rA,rB** (R308): with a count of zero rD is undefined (D17). -/
def execLswx (rD rA rB : GprNum) (s : State) : Out :=
  let ea := eaIndexed s rA rB
  let n := xerByteCount s.xer
  if lswxInvalid rD rA rB n then .refused .invalidForm
  else if n = 0 then .next (advance (writeGpr s rD (freeValue .lswxEmpty s)))
  else dataAccess .load ea n s (.next (advance (loadString s rD ea n)))

/-- Byte `k` of the string that the registers from rS on hold (R310). -/
def storedByte (s : State) (rS : GprNum) (k : Nat) : Byte :=
  Decode.byteOfWord (lowWord (readGpr s (stringReg rS (k / 4)))) (k % 4)

/-- **stswx rS,rA,rB** (R310). -/
def execStswx (rS rA rB : GprNum) (s : State) : Out :=
  let ea := eaIndexed s rA rB
  let n := xerByteCount s.xer
  dataAccess .store ea n s (.next (advance (storeBytes s ea n (storedByte s rS))))

end Sys2Proof.Machine
end

