-- ==== Sys2Proof/Machine/MsrMoves.lean ====
section
/-! DEFINITION. The MSR and segment register moves (40_register_moves.md R194 to R207). -/

namespace Sys2Proof.Machine

/-- The MSR written by a move: each bit of R404 that changes opens its window; the other bits take effect at once. -/
def writeMsr (s : State) (m : Word) : State :=
  { s with
    msr := m
    windows := { s.windows with msr := s.windows.msr ||| ((s.msr ^^^ m) &&& windowedBits s.cfg) } }

/-- The end of **mtmsr** and **mtmsrd** (R199): the write, or the stop of (e); the next instruction is the one that
follows in the mode before the write. -/
def moveToMsr (s : State) (m : Word) : Out :=
  match unsupportedMsr s.cfg m with
  | some r => .refused r
  | none => .next { writeMsr s m with pc := nextPc s }

/-- What **mtmsr** writes: on a 64-bit implementation the low-order word only (R196, R197). -/
def mtmsrValue (s : State) (v : Word) : Word :=
  if is64 s.cfg then merge s.msr v 0x00000000FFFFFFFF else low32 v

/-- **mfmsr rD** (R194). -/
def execMfmsr (rD : GprNum) (s : State) : Out :=
  supervisorOnly s (.next (advance (writeGpr s rD (visibleMsr s))))

/-- **mtmsr rS** (R196): on a 64-bit implementation it exists with the bridge only (R197). -/
def execMtmsr (rS : GprNum) (s : State) : Out :=
  presentIf (!is64 s.cfg || hasBridge s.cfg) (supervisorOnly s (moveToMsr s (mtmsrValue s (readGpr s rS))))

/-- **mtmsrd rS** (R198): 64-bit implementations only. -/
def execMtmsrd (rS : GprNum) (s : State) : Out :=
  presentIf (is64 s.cfg) (supervisorOnly s (moveToMsr s (readGpr s rS)))

/-- **mtsr SR,rS** (R200): on a 64-bit implementation as `segmentMove` says (R207, U2). -/
def execMtsr (sr : SrNum) (rS : GprNum) (s : State) : Out :=
  segmentMove s (.next (advance (writeSr s sr (lowWord (readGpr s rS)))))

/-- **mtsrin rS,rB** (R202): on a 64-bit implementation as `segmentMove` says (R207, U2). -/
def execMtsrin (rS rB : GprNum) (s : State) : Out :=
  segmentMove s
    (.next (advance (writeSr s (srIndex (readGpr s rB)) (lowWord (readGpr s rS)))))

/-- **mfsr rD,SR** (R204): on a 64-bit implementation as `segmentMove` says (R207, U2). -/
def execMfsr (rD : GprNum) (sr : SrNum) (s : State) : Out :=
  segmentMove s (.next (advance (writeGpr s rD (readSr s sr))))

/-- **mfsrin rD,rB** (R206): on a 64-bit implementation as `segmentMove` says (R207, U2). -/
def execMfsrin (rD rB : GprNum) (s : State) : Out :=
  segmentMove s
    (.next (advance (writeGpr s rD (readSr s (srIndex (readGpr s rB))))))

end Sys2Proof.Machine
end

