-- ==== Sys2Proof/Machine/SprMoves.lean ====
section
/-! DEFINITION. **mfspr**, **mtspr**, **mftb** (40_register_moves.md R180 to R193). -/

namespace Sys2Proof.Machine

/-- **mfspr rD,SPR** (R182).  The number is checked first, then the level (R181, R184). -/
def execMfspr (rD : GprNum) (spr : SprNum) (s : State) : Out :=
  match readableSpr s.cfg spr with
  | none => undefinedNumber spr s
  | some r =>
    if userMode s && !r.userLevel then raise (.program .privilegedInstruction) s
    else .next (advance (writeGpr s rD (readSpr s r)))

/-- **mtspr SPR,rS** (R186). -/
def execMtspr (spr : SprNum) (rS : GprNum) (s : State) : Out :=
  match writableSpr s.cfg spr with
  | none => undefinedNumber spr s
  | some r =>
    if userMode s && !r.userLevel then raise (.program .privilegedInstruction) s
    else match sprWriteRefusal s r (readGpr s rS) with
      | some e => .refused e
      | none => .next (advance (writeSpr s r (readGpr s rS)))

/-- **mftb rD,TBR** (R190, R191). -/
def execMftb (rD : GprNum) (tbr : SprNum) (s : State) : Out :=
  match readTbr s tbr with
  | none => undefinedNumber tbr s
  | some v => .next (advance (writeGpr s rD v))

end Sys2Proof.Machine
end

