-- ==== Sys2Proof/Machine/System.lean ====
section
/-! DEFINITION. System call, returns, synchronisation, external control and lookaside-buffer instructions
(43_system_sync.md R270 to R291). -/

namespace Sys2Proof.Machine

/-- **sc** (R270): the system call exception, which resumes at the instruction that follows. -/
def execSc (s : State) : Out := enter .systemCall (nextPc s) s

/-- **rfi** (R272): 32-bit implementations, and 64-bit ones with the bridge, where it loads the low-order word only
(R276).  Supervisor only (R275). -/
def execRfi (s : State) : Out :=
  presentIf (!is64 s.cfg || hasBridge s.cfg) (supervisorOnly s (returnFromException 0x0000000087C0FFFF s))

/-- **rfid** (R274): 64-bit implementations only.  Supervisor only (R275). -/
def execRfid (s : State) : Out :=
  presentIf (is64 s.cfg) (supervisorOnly s (returnFromException 0xFFFFFFFF87C0FFFF s))

/-- The windows a **sync** closes: those of the SLB and TLB entries (R278, R412). -/
def closeLookaside (s : State) : State := { s with windows := { s.windows with slb := false, tlb := false } }

/-- **sync** (R278): every earlier access is already performed, so what it does is close windows. -/
def execSync (s : State) : Out := .next (advance (closeLookaside s))

/-- **isync** (R280): the context-synchronizing instruction without another effect.  The next address is formed in the
context before. -/
def execIsync (s : State) : Out := .next (contextSync (advance s))

/-- **eciwx rD,rA,rB** (R284): optional, with the EAR. -/
def execEciwx (rD rA rB : GprNum) (s : State) : Out :=
  let ea := eaIndexed s rA rB
  presentIf s.cfg.hasEar
    (externalControl .load ea s
      (.next (advance (writeGpr s rD (zextWord (deviceRead s (earRid s.cfg (contextEar s)) ea))))))

/-- **ecowx rS,rA,rB** (R286): optional, with the EAR. -/
def execEcowx (rS rA rB : GprNum) (s : State) : Out :=
  let ea := eaIndexed s rA rB
  presentIf s.cfg.hasEar
    (externalControl .store ea s
      (.next (advance (deviceSend s (earRid s.cfg (contextEar s)) ea (lowWord (readGpr s rS))))))

/-- The window of the SLB entries opened (R412). -/
def openSlb (s : State) : State := { s with windows := { s.windows with slb := true } }

/-- The window of the TLB entries opened (R412). -/
def openTlb (s : State) : State := { s with windows := { s.windows with tlb := true } }

/-- **slbie rB** (R288): the SLB is not held, because no entry is used with translation off (R287). -/
def execSlbie (_rB : GprNum) (s : State) : Out :=
  presentIf (is64 s.cfg) (supervisorOnly s (.next (advance (openSlb s))))

/-- **slbia** (R289). -/
def execSlbia (s : State) : Out :=
  presentIf (is64 s.cfg) (supervisorOnly s (.next (advance (openSlb s))))

/-- **tlbie rB** (R290): the TLB is not held, because no entry is used with translation off (R287). -/
def execTlbie (_rB : GprNum) (s : State) : Out := supervisorOnly s (.next (advance (openTlb s)))

/-- **tlbia** (R291). -/
def execTlbia (s : State) : Out := supervisorOnly s (.next (advance (openTlb s)))

end Sys2Proof.Machine
end

