-- ==== Sys2Proof/Machine/Dispatch.lean ====
section
/-! DEFINITION. The meaning of every instruction, arm by arm. -/

namespace Sys2Proof.Machine

/-- The effect of an instruction on the machine. -/
def exec (i : Instr) (s : State) : Host.Outcome State Fault Refusal :=
  match i with
  | .mfspr rD spr => Sys2Proof.Machine.execMfspr rD spr s
  | .mtspr spr rS => Sys2Proof.Machine.execMtspr spr rS s
  | .mftb rD tbr => Sys2Proof.Machine.execMftb rD tbr s
  | .mfmsr rD => Sys2Proof.Machine.execMfmsr rD s
  | .mtmsr rS => Sys2Proof.Machine.execMtmsr rS s
  | .mtmsrd rS => Sys2Proof.Machine.execMtmsrd rS s
  | .mtsr sr rS => Sys2Proof.Machine.execMtsr sr rS s
  | .mtsrin rS rB => Sys2Proof.Machine.execMtsrin rS rB s
  | .mfsr rD sr => Sys2Proof.Machine.execMfsr rD sr s
  | .mfsrin rD rB => Sys2Proof.Machine.execMfsrin rD rB s
  | .mcrf crfD crfS => Sys2Proof.Machine.execMcrf crfD crfS s
  | .mtcrf crm rS => Sys2Proof.Machine.execMtcrf crm rS s
  | .mcrxr crfD => Sys2Proof.Machine.execMcrxr crfD s
  | .mcrfs crfD crfS => Sys2Proof.Machine.execMcrfs crfD crfS s
  | .mtfsfi crfD imm rc => Sys2Proof.Machine.execMtfsfi crfD imm rc s
  | .mtfsf fm frB rc => Sys2Proof.Machine.execMtfsf fm frB rc s
  | .mtfsb0 crbD rc => Sys2Proof.Machine.execMtfsb0 crbD rc s
  | .mtfsb1 crbD rc => Sys2Proof.Machine.execMtfsb1 crbD rc s
  | .cmp crfD l rA rB => Sys2Proof.Machine.execCmp crfD l rA rB s
  | .cmpi crfD l rA simm => Sys2Proof.Machine.execCmpi crfD l rA simm s
  | .cmpl crfD l rA rB => Sys2Proof.Machine.execCmpl crfD l rA rB s
  | .cmpli crfD l rA uimm => Sys2Proof.Machine.execCmpli crfD l rA uimm s
  | .b li aa lk => Sys2Proof.Machine.execB li aa lk s
  | .bc bo bi bd aa lk => Sys2Proof.Machine.execBc bo bi bd aa lk s
  | .bclr bo bi lk => Sys2Proof.Machine.execBclr bo bi lk s
  | .bcctr bo bi lk => Sys2Proof.Machine.execBcctr bo bi lk s
  | .sc => Sys2Proof.Machine.execSc s
  | .rfi => Sys2Proof.Machine.execRfi s
  | .rfid => Sys2Proof.Machine.execRfid s
  | .sync => Sys2Proof.Machine.execSync s
  | .isync => Sys2Proof.Machine.execIsync s
  | .eciwx rD rA rB => Sys2Proof.Machine.execEciwx rD rA rB s
  | .ecowx rS rA rB => Sys2Proof.Machine.execEcowx rS rA rB s
  | .slbie rB => Sys2Proof.Machine.execSlbie rB s
  | .slbia => Sys2Proof.Machine.execSlbia s
  | .tlbie rB => Sys2Proof.Machine.execTlbie rB s
  | .tlbia => Sys2Proof.Machine.execTlbia s
  | .addi rD rA simm => Sys2Proof.Machine.execAddi rD rA simm s
  | .lwz rD rA d => Sys2Proof.Machine.execLwz rD rA d s
  | .lswx rD rA rB => Sys2Proof.Machine.execLswx rD rA rB s
  | .stswx rS rA rB => Sys2Proof.Machine.execStswx rS rA rB s

end Sys2Proof.Machine
end

