-- ==== Sys2Proof/Machine/Fetch.lean ====
section
/-! DEFINITION. Fetching the instruction at the pc (30_encoding.md R150, R151, 20_memory.md R141). -/

namespace Sys2Proof.Machine

/-- The physical address of byte `k` of the instruction at the pc: with MSR[IR] = 0 the effective address (R122, R123). -/
def fetchAddr (s : State) (k : Nat) : Nat := (effective s (s.pc + BitVec.ofNat 64 k)).toNat

/-- The four bytes of the instruction, in the order in which they lie in memory. -/
def fetchBytes (s : State) : List Byte := (List.range 4).map (fun k => memRead s.mem (fetchAddr s k))

/-- The word at the pc, big-endian (R124). -/
def fetchWord (s : State) : Word32 :=
  Decode.wordOfBytes (memRead s.mem (fetchAddr s 0)) (memRead s.mem (fetchAddr s 1)) (memRead s.mem (fetchAddr s 2))
    (memRead s.mem (fetchAddr s 3))

/-- Why no instruction can be fetched: a mode no source defines (R123, R124, R370), an address at or above 2^32 while
the window of MSR[SF] is open (R418), a location stored to since the last context-synchronizing event (D16), or no
memory (R143). -/
def fetchRefusal (s : State) : Option Refusal :=
  match unsupportedMsr s.cfg (contextMsr s) with
  | some r => some r
  | none =>
    if s.windows.msr.getLsbD 63 && decide (2 ^ 32 ≤ s.pc.toNat) then some .implicitBranch
    else if (List.range 4).any (fun k => s.storedSince.contains (fetchAddr s k)) then some .unsynchronizedFetch
    else if !((List.range 4).all (fun k => mapped s.cfg (fetchAddr s k))) then some .noMemory
    else none

/-- The instruction at the pc, or why there is none (R157, R158). -/
def fetch (s : State) : Except Refusal Instr :=
  match fetchRefusal s with
  | some r => .error r
  | none =>
    match Decode.decodeBytes (fetchBytes s) with
    | .ok i => .ok i
    | .error _ => .error (.undecodedWord (fetchWord s))

/-- The state with a word placed where the next instruction is fetched, as a loader outside the machine would. -/
def placeWord (s : State) (w : Word32) : State :=
  { s with
    mem := memWriteAll s.mem ((List.range 4).map (fun k => (fetchAddr s k, Decode.byteOfWord w k)))
    storedSince := s.storedSince.filter (fun a => !((List.range 4).any (fun k => fetchAddr s k == a))) }

end Sys2Proof.Machine
end

