-- ==== Sys2Proof/Machine/Step.lean ====
section
/-! DEFINITION. One step: an instruction and the boundary after it. -/

namespace Sys2Proof.Machine

/-- One step of the machine: the instruction at the pc is fetched and executed, then comes the boundary (R352, R360). -/
def step (s : State) : Host.Outcome State Fault Refusal :=
  match fetch s with
  | .error r => .refused r
  | .ok i => andThen (exec i s) (settle i s)

/-- The state with the instruction word `w`, numbered as spec/opcode_table.json numbers it, where the next step
fetches: its most significant byte at the pc (R124, R150).  Log entry 9 says what this stands for. -/
def State.withFetchWord (s : State) (nbits w : Nat) : State := placeWord s (BitVec.ofNat 32 (w % 2 ^ nbits))

end Sys2Proof.Machine
end

