-- ==== Sys2Proof/Machine/FloatTransfer.lean ====
section
/-! DEFINITION. The floating-point loads and stores as a class (44_loads_stores_examples.md R306, 20_memory.md R127,
10_state.md R23, R24).

No instruction of the class has a row in the table (R173), so no arm of `exec` calls these operations: each is what the
class rule says an instruction does with its register and its effective address.  The source gives no conversion
algorithm (N21); the formats are those of IEEE 754.  PRESUMED, log entry 32. -/

namespace Sys2Proof.Machine

open Sys2Proof.Config

/-! ## The two formats -/

/-- The biased exponent and the fraction of a single-precision value. -/
def singleExponent (v : Word32) : Nat := (v.extractLsb' 23 8).toNat
def singleFraction (v : Word32) : Nat := (v.extractLsb' 0 23).toNat

/-- The biased exponent and the fraction of a double-precision value. -/
def doubleExponent (v : BitVec 64) : Nat := (v.extractLsb' 52 11).toNat
def doubleFraction (v : BitVec 64) : Nat := (v.extractLsb' 0 52).toNat

/-- A single-precision value from its sign, biased exponent and fraction, each modulo its field. -/
def singleOf (sign : Bool) (exponent fraction : Nat) : Word32 :=
  BitVec.ofBool sign ++ (BitVec.ofNat 8 exponent ++ BitVec.ofNat 23 fraction : BitVec 31)

/-- A double-precision value from its sign, biased exponent and fraction, each modulo its field. -/
def doubleOf (sign : Bool) (exponent fraction : Nat) : BitVec 64 :=
  BitVec.ofBool sign ++ (BitVec.ofNat 11 exponent ++ BitVec.ofNat 52 fraction : BitVec 63)

/-- A single-precision value in double-precision format: every one has a form there (R306).  A denormalized one, whose
leading one is bit `log2 f` of its fraction, becomes normalized. -/
def singleToDouble (v : Word32) : BitVec 64 :=
  let e := singleExponent v
  let f := singleFraction v
  if e = 255 then doubleOf v.msb 2047 (f <<< 29)
  else if e ≠ 0 then doubleOf v.msb (e + 896) (f <<< 29)
  else if f = 0 then doubleOf v.msb 0 0
  else doubleOf v.msb (874 + Nat.log2 f) (f <<< (52 - Nat.log2 f))

/-- The single-precision form of a double-precision value that has one (R306): with a biased exponent from 874 to 896 it
is denormalized. -/
def doubleToSingle (v : BitVec 64) : Word32 :=
  let e := doubleExponent v
  let f := doubleFraction v
  if e = 2047 then singleOf v.msb 255 (f >>> 29)
  else if 897 ≤ e then singleOf v.msb (e - 896) (f >>> 29)
  else if 874 ≤ e then singleOf v.msb 0 ((2 ^ 52 + f) >>> (926 - e))
  else singleOf v.msb 0 0

/-- The value is representable in single-precision format (R24). -/
def singleRepresentable (v : BitVec 64) : Bool := singleToDouble (doubleToSingle v) == v

/-! ## The transfers -/

/-- `MemRead(EA, 8)`, big-endian (R124). -/
def loadDoubleword (s : State) (ea : Word) : BitVec 64 := loadWord s ea ++ loadWord s (ea + 4)

/-- Byte `k` of a double word, the most significant first. -/
def byteOfDoubleword (v : BitVec 64) (k : Nat) : Byte := v.extractLsb' (56 - 8 * k) 8

/-- The FPSCR's status bits: all but FEX and VX, which are computed, the reserved bit, and the controls 24-31 (R31).  R24
calls their setting undefined, while R38 and R231 (e) let five other instructions alone alter VXSOFT, and R42 four of
them alone clear a sticky bit.  DESIGN CHOICE, log entry 32: R24 is taken whole, so VXSOFT and every sticky bit are among
them. -/
def fpscrStatusBits : Word32 := 0x9FFFF700

/-- The status that an instruction on a value that is not representable leaves, which is undefined: the FPSCR's status
bits, and with Rc = 1 the field CR1 (R24, R306, D17). -/
def undefinedSingleStatus (rc : Bool) (s : State) : State :=
  let v := freeValue .singleStatus s
  let t := setFpscr s (merge s.fpscr (lowWord v) fpscrStatusBits)
  if rc then writeCrField t 1 (v.extractLsb' 32 4) else t

/-- Load double-word: 64 bits from memory to an FPR, with no conversion (R306). -/
def loadFprDouble (frD : FprNum) (ea : Word) (s : State) : Out :=
  fpAvailable s (dataAccess .load ea 8 s (.next (advance (writeFpr s frD (loadDoubleword s ea)))))

/-- Load single: a single-precision value from memory, converted (R306). -/
def loadFprSingle (frD : FprNum) (ea : Word) (s : State) : Out :=
  fpAvailable s (dataAccess .load ea 4 s (.next (advance (writeFpr s frD (singleToDouble (loadWord s ea))))))

/-- Store double-word: 64 bits from an FPR to memory, with no conversion (R306). -/
def storeFprDouble (frS : FprNum) (ea : Word) (s : State) : Out :=
  fpAvailable s
    (dataAccess .store ea 8 s (.next (advance (storeBytes s ea 8 (byteOfDoubleword (readFpr s frS))))))

/-- Store single-precision: the FPR's value converted and stored; where it is not representable, the word in memory and
the status bits are undefined (R24, R306). -/
def storeFprSingle (frS : FprNum) (ea : Word) (s : State) : Out :=
  let v := readFpr s frS
  fpAvailable s
    (dataAccess .store ea 4 s
      (if singleRepresentable v then
        .next (advance (storeBytes s ea 4 (Decode.byteOfWord (doubleToSingle v))))
      else
        fpComplete false
          (advance (undefinedSingleStatus false
            (storeBytes s ea 4 (Decode.byteOfWord (lowWord (freeValue .singleStore s))))))))

end Sys2Proof.Machine
end

