-- ==== Sys2Proof/Machine/Translation.lean ====
section
/-! DEFINITION. What the fields of the translation registers mean (10_state.md R70 to R86, 20_memory.md R130 to
R136).

The model runs with translation off, as the spec's decision D9 has it, so no instruction calls these functions: they
state the formulas the spec gives for the fields, and the order in which the mechanisms apply (`translateAddress`), in one
place.  Log entry 25. -/

namespace Sys2Proof.Machine

open Sys2Proof.Config

/-! ## Block address translation (R71 to R75, R131) -/

/-- BL of an upper BAT register, 11 bits (R71). -/
def batBL (upper : Word) : BitVec 11 := upper.extractLsb' 2 11

def batVs (upper : Word) : Bool := upper.getLsbD 1
def batVp (upper : Word) : Bool := upper.getLsbD 0

/-- The BL values of Table 2-12: a string of ones at the right end (R73). -/
def batBLValid (bl : BitVec 11) : Bool := bl &&& (bl + 1) == 0

/-- The length of the block in bytes: 128 Kbytes times one more than BL (R73, R74). -/
def batLength (bl : BitVec 11) : Nat := 131072 * (bl.toNat + 1)

/-- The address bits that are the offset within the block (R74). -/
def batOffsetMask (upper : Word) : Word := (batBL upper).setWidth 64 <<< 17 ||| 0x1FFFF

/-- BEPI, in its position (R71): the bits above BL's field and the reserved bits. -/
def batBEPI (p : Params) (upper : Word) : Word := toWidth p (upper &&& 0xFFFFFFFFFFFE0000)

/-- The pair is valid at the level of the access (R131). -/
def batValid (user : Bool) (upper : Word) : Bool := (!user && batVs upper) || (user && batVp upper)

/-- The effective address lies within the block (R74). -/
def batHit (p : Params) (upper ea : Word) : Bool :=
  toWidth p ea &&& ~~~(batOffsetMask upper) == batBEPI p upper

/-- The physical address the pair gives (R131). -/
def batPhysical (p : Params) (upper lower ea : Word) : Word :=
  toWidth p ((lower &&& 0xFFFFFFFFFFFE0000) ||| (ea &&& batOffsetMask upper))

/-- R75: BEPI and BRPN have at least as many low-order zeros as BL has ones. -/
def batAligned (upper lower : Word) : Bool :=
  (upper ||| lower) &&& (batOffsetMask upper &&& 0xFFFFFFFFFFFE0000) == 0

/-- The memory/cache access mode bits W, I, M, G of a lower BAT register (R72, R128). -/
def batWIMG (lower : Word) : BitVec 4 := lower.extractLsb' 3 4

/-- The protection bits of a lower BAT register, whose meaning no source gives (R72, R137). -/
def batPP (lower : Word) : BitVec 2 := lower.extractLsb' 0 2

/-- The access mode of **eciwx** and **ecowx**: caching-inhibited and guarded (R106, R128). -/
def externalControlWIMG : BitVec 4 := 0b0101

/-! ## The page table (R77 to R80, R132) -/

/-- `k`, how many hash bits the page table index takes beyond the least number: the integer HTABSIZE on a 64-bit
implementation (R78, C12), the ones of HTABMASK on a 32-bit one (R80). -/
def hashExtraBits (p : Params) (sdr1 : Word) : Nat :=
  if is64 p then (sdr1 &&& 0x1F).toNat else Nat.log2 ((sdr1 &&& 0x1FF).toNat + 1)

/-- The mask that `k` stands for, `0b00...011...1` with `k` ones: on a 64-bit implementation generated from HTABSIZE
(R78), on a 32-bit one HTABMASK itself (R80). -/
def hashMask (p : Params) (sdr1 : Word) : Word := (1 <<< hashExtraBits p sdr1) - 1

/-- How many bits of the hash index the page table: at least 11 or 10 (R78, R80). -/
def pageIndexBits (p : Params) (sdr1 : Word) : Nat := (if is64 p then 11 else 10) + hashExtraBits p sdr1

/-- How many PTEGs the page table has (R78, R80). -/
def ptegCount (p : Params) (sdr1 : Word) : Nat := 2 ^ pageIndexBits p sdr1

/-- log2 of a PTEG's size: 128 bytes, on a 32-bit implementation 64 (R78, R80, R127). -/
def ptegLog2 (p : Params) : Nat := if is64 p then 7 else 6

/-- log2 of the page table's size in bytes: 18 + k, on a 32-bit implementation 16 + k (R78, R80). -/
def pageTableLog2 (p : Params) (sdr1 : Word) : Nat := pageIndexBits p sdr1 + ptegLog2 p

/-- SDR1 meets the constraints of R78 or R80: HTABSIZE at most 28, HTABMASK a string of ones at the right end, and
HTABORG a multiple of the table's size. -/
def sdr1WellFormed (p : Params) (sdr1 : Word) : Bool :=
  (if is64 p then (sdr1 &&& 0x1F).toNat ≤ 28 else sdr1 &&& 0x1FF &&& ((sdr1 &&& 0x1FF) + 1) == 0) &&
    (sdr1 &&& (if is64 p then 0xFFFFFFFFFFFC0000 else 0xFFFF0000)).toNat % 2 ^ pageTableLog2 p sdr1 = 0

/-- The physical address of the page table (R77, R79). -/
def pageTableBase (p : Params) (sdr1 : Word) : Word :=
  sdr1 &&& (if is64 p then 0xFFFFFFFFFFFC0000 else 0x00000000FFFF0000)

/-! ## Segments (R81 to R86, R134 to R136) -/

/-- The physical address of the segment table (R81). -/
def segmentTableBase (asr : Word) : Word := asr &&& 0xFFFFFFFFFFFFF000

/-- The segment table addresses that software may not use (R82). -/
def segmentTableForbidden (asr : Word) : Bool :=
  segmentTableBase asr == 0 || segmentTableBase asr == 0x1000 || segmentTableBase asr == 0x2000

/-- STABORG is valid: with the bridge where ASR[V] is one (R83). -/
def segmentTableValid (p : Params) (asr : Word) : Bool := !hasBridge p || asr.getLsbD 0

/-- The SLB is used as sixteen segment registers: the bridge with ASR[V] = 0 in 32-bit mode (R83). -/
def slbAsSegments (s : State) : Bool := hasBridge s.cfg && !s.asr.getLsbD 0 && !msrSF (contextMsr s)

/-- A segment register as its T bit has it read (R85, R86). -/
inductive Segment where
  /-- T = 0: Ks, Kp, N and the 24-bit VSID -/
  | memoryMapped (ks kp n : Bool) (vsid : BitVec 24)
  /-- T = 1: Ks, Kp, the 9-bit BUID and the 20 controller-specific bits -/
  | directStore (ks kp : Bool) (buid : BitVec 9) (controller : BitVec 20)
  deriving DecidableEq, Repr

def segmentOf (v : Word32) : Segment :=
  if v.getLsbD 31 then .directStore (v.getLsbD 30) (v.getLsbD 29) (v.extractLsb' 20 9) (v.extractLsb' 0 20)
  else .memoryMapped (v.getLsbD 30) (v.getLsbD 29) (v.getLsbD 28) (v.extractLsb' 0 24)

/-- The segment register an effective address selects (R134). -/
def segmentSelect (ea : Word) : SrNum := ea.extractLsb' 28 4

/-- The 52-bit virtual address: VSID, page index, byte offset (R135). -/
def virtualAddress (vsid : BitVec 24) (ea : Word) : BitVec 52 :=
  vsid ++ (ea.extractLsb' 12 16 : BitVec 16) ++ (ea.extractLsb' 0 12 : BitVec 12)

/-! ## The order of the mechanisms (R123, R130, R131) -/

/-- The kinds of access that have a translation enable and BAT registers of their own (R130, R131). -/
inductive AccessKind where
  | instruction
  | data
  deriving DecidableEq, Repr

/-- Translation is enabled for the kind of access: MSR[IR] or MSR[DR] (R123, R130). -/
def translates (s : State) : AccessKind → Bool
  | .instruction => msrIR (contextMsr s)
  | .data => msrDR (contextMsr s)

/-- The BAT registers of the kind of access, in the order 0U, 0L, 1U, ..., 3L (R70, R131). -/
def batRegisters (s : State) : AccessKind → Vector Word 8
  | .instruction => s.ibat
  | .data => s.dbat

/-- The upper and the lower register of pair `n` (R70). -/
def batUpper (s : State) (kind : AccessKind) (n : Fin 4) : Word := (batRegisters s kind)[2 * n.val]
def batLower (s : State) (kind : AccessKind) (n : Fin 4) : Word := (batRegisters s kind)[2 * n.val + 1]

/-- Pair `n` translates the access: it is valid at the level and the address lies within its block (R131). -/
def batTranslates (s : State) (kind : AccessKind) (ea : Word) (n : Fin 4) : Bool :=
  batValid (userMode s) (batUpper s kind n) && batHit s.cfg (batUpper s kind n) ea

/-- Pair `n` is not valid at any level, or has a BL of Table 2-12 and a BEPI and BRPN aligned to it (R73, R75). -/
def batUsable (s : State) (kind : AccessKind) (n : Fin 4) : Bool :=
  !(batVs (batUpper s kind n) || batVp (batUpper s kind n)) ||
    (batBLValid (batBL (batUpper s kind n)) && batAligned (batUpper s kind n) (batLower s kind n))

/-- All eight pairs are usable: else a translated access is refused (U17, U18). -/
def batsUsable (s : State) : Bool :=
  [0, 1, 2, 3].all (fun n => batUsable s .instruction n && batUsable s .data n)

/-- Why a translated access has no meaning in any source. -/
inductive TranslationStop where
  /-- a BAT pair that is valid has a BL outside Table 2-12, or a BEPI or BRPN not aligned to it (U17, U18) -/
  | unusableBats
  /-- more than one BAT pair matches (R131, N28) -/
  | overlappingBlocks
  /-- a page table search with an ill-formed SDR1 (U19) -/
  | illFormedSdr1
  /-- a segment table search at an address that R82 forbids (U20) -/
  | forbiddenSegmentTable
  deriving DecidableEq, Repr

/-- What an effective address becomes, as far as a source says (R130). -/
inductive Route where
  /-- translation is off: the physical address (R123) -/
  | real (physical : Word)
  /-- a BAT pair translates the access: the pair and the physical address (R131) -/
  | block (n : Fin 4) (physical : Word)
  /-- a memory-mapped segment of a 32-bit implementation: the virtual address, and where the page table lies that it goes
  through (R135, R79) -/
  | paged (virtual : BitVec 52) (pageTable : Word)
  /-- a direct-store segment: the BUID and the controller-specific bits (R136) -/
  | directStore (buid : BitVec 9) (controller : BitVec 20)
  /-- a 64-bit implementation: where the segment table lies, and whether that address is valid; no source gives the
  format of its entries (R81, R83) -/
  | segmentTable (base : Word) (valid : Bool)
  /-- the bridge: sixteen SLB entries, whose content is in no source (R83, R84) -/
  | slbEntries
  /-- no source says what follows -/
  | stopped (why : TranslationStop)
  deriving DecidableEq, Repr

/-- A route that ends in a page table search (R130, U19). -/
def pageSearch (s : State) (r : Route) : Route :=
  if sdr1WellFormed s.cfg s.sdr1 then r else .stopped .illFormedSdr1

/-- The segment mechanism, which applies where no BAT pair translates the access (R130, R134 to R136). -/
def segmentRoute (s : State) (ea : Word) : Route :=
  if is64 s.cfg then
    (if slbAsSegments s then pageSearch s .slbEntries
      else if segmentTableForbidden s.asr then .stopped .forbiddenSegmentTable
      else pageSearch s (.segmentTable (segmentTableBase s.asr) (segmentTableValid s.cfg s.asr)))
  else
    match segmentOf (s.sr[(segmentSelect ea).toNat]'(segmentSelect ea).isLt) with
    | .memoryMapped _ _ _ vsid => pageSearch s (.paged (virtualAddress vsid ea) (pageTableBase s.cfg s.sdr1))
    | .directStore _ _ buid controller => .directStore buid controller

/-- The order of the mechanisms (R130): none where translation is off for the kind of access, else the BAT pairs of that
kind, which take precedence, else the segment mechanism. -/
def translateAddress (s : State) (kind : AccessKind) (a : Word) : Route :=
  let ea := effective s a
  if !translates s kind then .real ea
  else if !batsUsable s then .stopped .unusableBats
  else
    match [0, 1, 2, 3].filter (batTranslates s kind ea) with
    | [] => segmentRoute s ea
    | [n] => .block n (batPhysical s.cfg (batUpper s kind n) (batLower s kind n) ea)
    | _ => .stopped .overlappingBlocks

end Sys2Proof.Machine
end

