-- ==== Sys2Proof/Safety.lean ====
section
/-! DEFINITION. What holds of every state of a run, and which states a run reaches.

`State.Inv` collects what the rules promise of the machine's state whatever it executes. -/

namespace Sys2Proof.Machine

open Sys2Proof.Config

/-- The high-order half of a `W`-bit register is zero on a 32-bit implementation (R6, R22). -/
def fitsWidth (p : Params) (v : Word) : Prop := toWidth p v = v

/-- Every `W`-bit register fits the implementation's width (R116). -/
structure State.Fits (s : State) : Prop where
  gpr : ∀ r : GprNum, fitsWidth s.cfg (readGpr s r)
  lr : fitsWidth s.cfg s.lr
  ctr : fitsWidth s.cfg s.ctr
  pc : fitsWidth s.cfg s.pc
  msr : fitsWidth s.cfg s.msr
  ibat : ∀ i : Fin 8, fitsWidth s.cfg (s.ibat[i.val]'i.isLt)
  dbat : ∀ i : Fin 8, fitsWidth s.cfg (s.dbat[i.val]'i.isLt)
  sdr1 : fitsWidth s.cfg s.sdr1
  asr : fitsWidth s.cfg s.asr
  dar : fitsWidth s.cfg s.dar
  sprg : ∀ i : Fin 4, fitsWidth s.cfg (s.sprg[i.val]'i.isLt)
  srr0 : fitsWidth s.cfg s.srr0
  srr1 : fitsWidth s.cfg s.srr1
  dabr : fitsWidth s.cfg s.dabr

/-- What every step keeps. -/
structure State.Inv (s : State) : Prop where
  /-- memory is in its canonical form -/
  memory : s.mem.wf = true
  /-- registers fit their width (R6) -/
  fits : s.Fits
  /-- the pc is a multiple of four (R151) -/
  aligned : s.pc &&& 3 = 0
  /-- FEX and VX are computed, never stored (R33, R34) -/
  fpscr : s.fpscr &&& fpscrComputedBits = 0
  /-- the machine runs big-endian, with translation off and without power management (D8, D9, D20) -/
  supported : unsupportedMsr s.cfg s.msr = none
  /-- only the bits of R404 have windows, and IR and DR never change -/
  windows : s.windows.msr &&& ~~~(windowedBits s.cfg &&& ~~~0x30) = 0
  /-- the W and G bits of an IBATnL, which are not defined, hold zero (R76) -/
  ibat : ∀ i : Fin 8, i.val % 2 = 1 → (s.ibat[i.val]'i.isLt) &&& 0x48 = 0

/-! ## Terms of the statements -/

/-- Every byte of memory reads in `t` as in `s`. -/
def sameMemory (s t : State) : Prop := ∀ a, memRead t.mem a = memRead s.mem a

/-- General register `r` and the pc may differ; nothing else does, and every byte of memory reads as before. -/
structure OnlyGpr (r : GprNum) (s t : State) : Prop where
  gprs : ∀ q, q ≠ r → readGpr t q = readGpr s q
  memory : sameMemory s t
  rest : t = { s with gpr := t.gpr, pc := t.pc }

/-- CR field `f` and the pc may differ; nothing else does, and every byte of memory reads as before. -/
structure OnlyCrField (f : FieldNum) (s t : State) : Prop where
  fields : ∀ g, g ≠ f → field4 t.cr g = field4 s.cr g
  memory : sameMemory s t
  rest : t = { s with cr := t.cr, pc := t.pc }

/-- What an SPR stores, its reserved bits as they were last written (R114). -/
def storedSpr (s : State) : Spr → Word
  | .xer => zextWord s.xer
  | .lr => s.lr
  | .ctr => s.ctr
  | .dsisr => zextWord s.dsisr
  | .dar => s.dar
  | .dec => zextWord s.dec
  | .sdr1 => s.sdr1
  | .srr0 => s.srr0
  | .srr1 => s.srr1
  | .sprg i => s.sprg[i.val]'i.isLt
  | .asr => s.asr
  | .ear => zextWord s.ear
  | .tbl => zextWord (s.tb.setWidth 32)
  | .tbu => zextWord (s.tb.extractLsb' 32 32)
  | .pvr => zextWord s.cfg.pvrValue
  | .ibat i => s.ibat[i.val]'i.isLt
  | .dbat i => s.dbat[i.val]'i.isLt
  | .dabr => s.dabr
  | .fpecr => zextWord s.fpecr
  | .pir => zextWord s.pir

/-- The SPRs that are 32 bits wide on every implementation (R7, R114); FPECR and PIR by the model's choice (log entry 17). -/
def Spr.narrow : Spr → Bool
  | .xer | .dsisr | .dec | .ear | .tbl | .tbu | .pvr | .fpecr | .pir => true
  | _ => false

/-- The supervisor-level instructions other than **mfspr** and **mtspr** (R363). -/
def supervisorInstr : Instr → Bool
  | .mfmsr _ | .mtmsr _ | .mtmsrd _ | .mtsr _ _ | .mtsrin _ _ | .mfsr _ _ | .mfsrin _ _ | .rfi | .rfid | .slbie _
  | .slbia | .tlbie _ | .tlbia => true
  | _ => false

/-- The floating-point instructions of the table (R344). -/
def fpInstr : Instr → Bool
  | .mcrfs _ _ | .mtfsfi _ _ _ | .mtfsf _ _ _ | .mtfsb0 _ _ | .mtfsb1 _ _ => true
  | _ => false

/-- The segment register moves (R200 to R207). -/
def segmentInstr : Instr → Bool
  | .mtsr _ _ | .mtsrin _ _ | .mfsr _ _ | .mfsrin _ _ => true
  | _ => false

/-- The instruction exists on the implementation (R158; R172, R197, R198, R207, R274, R276, R284, R287). -/
def existsOn (p : Params) : Instr → Bool
  | .mtmsr _ | .rfi | .mtsr _ _ | .mtsrin _ _ | .mfsr _ _ | .mfsrin _ _ => !is64 p || hasBridge p
  | .mtmsrd _ | .rfid | .slbie _ | .slbia => is64 p
  | .eciwx _ _ _ | .ecowx _ _ _ => p.hasEar
  | _ => true

/-- The states of a run of `step` from `s`. -/
inductive Reachable (s : State) : State → Prop where
  | start : Reachable s s
  | step {t u : State} : Reachable s t → Machine.step t = .next u → Reachable s u

end Sys2Proof.Machine
end

