-- ==== Sys2Proof/WellFormed.lean ====
section
/-! DEFINITION. The instruction forms that are valid whatever the state and the implementation.

The widths of the operands are in the types of `Instr`.  What is left are the two forms that the spec calls
invalid by their fields alone: **bcctr** with a BO that asks for a decrement (R260) and **lswx** whose target is
one of its address registers (R308).  Two more forms are invalid on some machines or states only and are checked
where the instruction executes: a compare with L = 1 on a 32-bit implementation (R240) and an **lswx** whose
loaded range, which the XER fixes, reaches rA or rB (R308). -/

namespace Sys2Proof

/-- No field of the instruction makes it an invalid form (R260, R308, decision D24). -/
def Instr.wellFormed : Instr → Bool
  | .bcctr bo _ _ => bo.getLsbD 2
  | .lswx rD rA rB => rD != rA && rD != rB
  | .mfspr _ _ => true
  | .mtspr _ _ => true
  | .mftb _ _ => true
  | .mfmsr _ => true
  | .mtmsr _ => true
  | .mtmsrd _ => true
  | .mtsr _ _ => true
  | .mtsrin _ _ => true
  | .mfsr _ _ => true
  | .mfsrin _ _ => true
  | .mcrf _ _ => true
  | .mtcrf _ _ => true
  | .mcrxr _ => true
  | .mcrfs _ _ => true
  | .mtfsfi _ _ _ => true
  | .mtfsf _ _ _ => true
  | .mtfsb0 _ _ => true
  | .mtfsb1 _ _ => true
  | .cmp _ _ _ _ => true
  | .cmpi _ _ _ _ => true
  | .cmpl _ _ _ _ => true
  | .cmpli _ _ _ _ => true
  | .b _ _ _ => true
  | .bc _ _ _ _ _ => true
  | .bclr _ _ _ => true
  | .sc => true
  | .rfi => true
  | .rfid => true
  | .sync => true
  | .isync => true
  | .eciwx _ _ _ => true
  | .ecowx _ _ _ => true
  | .slbie _ => true
  | .slbia => true
  | .tlbie _ => true
  | .tlbia => true
  | .addi _ _ _ => true
  | .lwz _ _ _ => true
  | .stswx _ _ _ => true

end Sys2Proof
end

