-- ==== Sys2Proof/Certificates/Slice0/Obligations.lean ====
section
/-! DEFINITION. The statements for the provers.  Each says in its docstring which rules it rests on. -/

open Sys2Proof Sys2Proof.Config Sys2Proof.Machine

/-! ## Encoding (30_encoding.md) -/

/-- R152, R154, R157, R172: the word of every instruction decodes to the instruction, whatever its operands.
The spec marks as supplied by itself, whole or in part: R152, R154, R157, R172 (log entry 10). -/
def Obligations.EveryEncodingDecodesBack : Prop := ∀ i : Instr, Decode.decode (Decode.encode i) = .ok i

/-- R157, R172: a word that decodes is the word of the instruction it decodes to, so no two words stand for one.
The spec marks as supplied by itself, whole or in part: R157, R172 (log entry 10). -/
def Obligations.EveryDecodedWordIsItsEncoding : Prop :=
  ∀ (w : Word32) (i : Instr), Decode.decode w = .ok i → Decode.encode i = w

/-- R157: no two rows of the table overlap; and a word with a row's opcode and another of the row's mask bits wrong is
refused, by the row's name (D24).
The spec marks as supplied by itself, whole or in part: R157 (log entry 10). -/
def Obligations.OpcodeTableRows : Prop :=
  Decode.table.Pairwise (fun r q => ∀ w : Word32, ¬(r.matches w = true ∧ q.matches w = true)) ∧
  ∀ r ∈ Decode.table, ∀ w : Word32, w &&& r.opMask = r.pat &&& r.opMask → w &&& r.mask ≠ r.pat →
    Decode.decode w = .error (.reservedBitSet r.mnemonic)

/-- 95_test_vectors.md: words of the spec's worked examples, written out, decode to the instructions they stand for. -/
def Obligations.WorkedExampleWordsDecode : Prop :=
  Decode.decode 0x7C6C42E6#32 = .ok (.mftb 3 268) ∧
  Decode.decode 0x7C7603A6#32 = .ok (.mtspr 22 3) ∧
  Decode.decode 0x4082FFF4#32 = .ok (.bc 4 2 0x3FFD false false) ∧
  Decode.decode 0xFDFE0D8E#32 = .ok (.mtfsf 0xFF 1 false) ∧
  Decode.decode 0x7CA0242A#32 = .ok (.lswx 5 0 4) ∧
  Decode.decode 0x7C681120#32 = .ok (.mtcrf 0x81 3) ∧
  Decode.decode 0x7C8501A4#32 = .ok (.mtsr 5 4) ∧
  Decode.decode 0x3863FFFF#32 = .ok (.addi 3 3 0xFFFF) ∧
  Decode.decode 0x2B830010#32 = .ok (.cmpli 7 false 3 0x10)

/-! ## The step -/

/-- R150, R157, R347, R352, R360: where the bytes at the pc can be fetched and decode to `i`, a step is `exec` of `i`,
the end of the instruction (trace), then the boundary (ticks and asynchronous exceptions), with fresh free values for
the boundary and for the next step (log entries 2 and 26).
The spec marks as supplied by itself, whole or in part: R150, R157, R347, R352, R360 (log entry 10). -/
def Obligations.StepRunsTheDecodedInstruction : Prop :=
  ∀ (s : State) (i : Instr), fetchRefusal s = none → Decode.decodeBytes (fetchBytes s) = .ok i →
    step s = andThen (exec i s) (fun t => andThen (complete i s t) (fun u =>
      andThen (boundary { u with freeCtr := u.freeCtr + 1 }) (fun v => .next { v with freeCtr := v.freeCtr + 1 })))

/-- R122, R123, R124, R141, R143, R157, R158, R370, R418: when a step stops without an instruction, in the order of
the checks (the order is the model's choice, log entry 23): a mode that no source defines; an address at or above 2^32
while the window of MSR[SF] is open; a location stored to since the last context synchronization (log entry 20); no
memory; a word that matches no row (log entry 28).  Outside 64-bit mode every fetch is below 2^32, and on a 64-bit
implementation that is the model's choice for the vector of log entry 30.  While the window is open at an instruction,
or opened by it, and the address of the next instruction in memory differs between the two modes (U28), an instruction
that goes on there stops at its end (log entry 33).
The spec marks as supplied by itself, whole or in part: R122, R123, R124, R141, R143, R157, R370 (log entry 10). -/
def Obligations.FetchStops : Prop :=
  ∀ s : State,
    (∀ r, unsupportedMsr s.cfg (contextMsr s) = some r → step s = .refused r) ∧
    (unsupportedMsr s.cfg (contextMsr s) = none → s.windows.msr.getLsbD 63 = true → 2 ^ 32 ≤ s.pc.toNat →
      step s = .refused .implicitBranch) ∧
    (unsupportedMsr s.cfg (contextMsr s) = none → (s.windows.msr.getLsbD 63 = false ∨ s.pc.toNat < 2 ^ 32) →
      ((∃ k < 4, fetchAddr s k ∈ s.storedSince) → step s = .refused .unsynchronizedFetch) ∧
      ((∀ k < 4, fetchAddr s k ∉ s.storedSince) → (∃ k < 4, mapped s.cfg (fetchAddr s k) = false) →
        step s = .refused .noMemory) ∧
      ((∀ k < 4, fetchAddr s k ∉ s.storedSince) → (∀ k < 4, mapped s.cfg (fetchAddr s k) = true) →
        (∀ r ∈ Decode.table, fetchWord s &&& r.mask ≠ r.pat) →
        step s = .refused (.undecodedWord (fetchWord s)))) ∧
    (∀ k < 4, fetchAddr s k = (effective s (s.pc + BitVec.ofNat 64 k)).toNat ∧
      (mode64 s = false → fetchAddr s k < 2 ^ 32)) ∧
    (∀ (i : Instr) (t : State), exec i s = .next t → t.excCount = s.excCount →
      (s.windows.msr.getLsbD 63 = true ∨ t.windows.msr.getLsbD 63 = true) → 2 ^ 32 ≤ (s.pc + 4).toNat →
      (∀ li aa lk, i ≠ .b li aa lk) → i ≠ .rfi → i ≠ .rfid →
      (∀ bo bi bd aa lk, i = .bc bo bi bd aa lk → branchTaken s bo bi = false) →
      (∀ bo bi lk, i = .bclr bo bi lk → branchTaken s bo bi = false) →
      (∀ bo bi lk, i = .bcctr bo bi lk → branchCondOk s bo bi = false) →
      complete i s t = .refused .implicitBranch)

/-- R402: what an instruction sees while windows are open.  Every MSR bit whose window is closed is the register's;
the EAR is one of the values it has had since its window was opened, and with the window closed it is the register's.
The level, the mode and MSR[FP] that an instruction checks are bits of that MSR (R10, R362).  Which bits have a
window, and that an EAR seen before an **mtspr** is the old one, is the model's (log entries 11 and 31).
The spec marks as supplied by itself, whole or in part: R402 (log entry 10). -/
def Obligations.WindowContext : Prop :=
  ∀ s : State,
    (∀ k, s.windows.msr.getLsbD k = false → (contextMsr s).getLsbD k = s.msr.getLsbD k) ∧
    contextEar s ∈ s.ear :: s.windows.ear ∧
    (s.windows.ear = [] → contextEar s = s.ear) ∧
    userMode s = (contextMsr s).getLsbD 14 ∧ mode64 s = (is64 s.cfg && (contextMsr s).getLsbD 63) ∧
    (∀ k, fpAvailable s k = if (contextMsr s).getLsbD 13 then k else raise .fpUnavailable s)

/-- R124, R150: the word of an instruction placed at the pc is fetched as that instruction, with the window of MSR[SF]
closed, in a mode the spec defines and where memory exists.
The spec marks as supplied by itself, whole or in part: R124, R150 (log entry 10). -/
def Obligations.PlacedInstructionIsFetched : Prop :=
  ∀ (s : State) (i : Instr), s.Inv → s.windows.msr.getLsbD 63 = false →
    (∀ k < 4, mapped s.cfg (fetchAddr s k) = true) →
    fetch (s.withFetchWord 32 (Decode.encode i).toNat) = .ok i

/-! ## What holds of every step -/

/-- The invariant of the model (R6, R33, R34, R76, R151; the modes of D8, D9, D20): every step keeps it.
The spec marks as supplied by itself, whole or in part: R33, R34, R151 (log entry 10). -/
def Obligations.StepKeepsTheInvariant : Prop := ∀ s t : State, s.Inv → step s = .next t → t.Inv

/-- The invariant holds at reset. -/
def Obligations.ResetMeetsTheInvariant : Prop := State.reset.Inv

/-- R69, R6: no step changes the implementation's parameters, among them the PVR's value.
The spec marks as supplied by itself, whole or in part: R69 (log entry 10). -/
def Obligations.StepKeepsTheParameters : Prop := ∀ s t : State, step s = .next t → t.cfg = s.cfg

/-- R362: an instruction executed at user level that takes no exception leaves every supervisor-level register as it
was, the MSR included, and the time base. -/
def Obligations.UserLevelLeavesSupervisorState : Prop :=
  ∀ (i : Instr) (s t : State), userMode s = true → exec i s = .next t → t.excCount = s.excCount →
    t = { s with gpr := t.gpr, cr := t.cr, fpscr := t.fpscr, xer := t.xer, lr := t.lr, ctr := t.ctr, pc := t.pc,
                 mem := t.mem, windows := t.windows, storedSince := t.storedSince, deviceOut := t.deviceOut }

/-- R121: **stswx** is the only instruction that writes memory. -/
def Obligations.OnlyStswxWritesMemory : Prop :=
  ∀ (i : Instr) (s t : State), (∀ rS rA rB, i ≠ .stswx rS rA rB) → exec i s = .next t → sameMemory s t

/-- R215, R220: **mtspr** to the XER and **mcrxr** are the only instructions of the table that write the XER, and
**mcrxr** leaves all but its four high-order bits.
The spec marks as supplied by itself, whole or in part: R220 (log entry 10). -/
def Obligations.OnlyMtsprAndMcrxrWriteTheXer : Prop :=
  ∀ (i : Instr) (s t : State), exec i s = .next t → t.xer ≠ s.xer →
    (∃ rS, i = .mtspr 1 rS) ∨ ((∃ f, i = .mcrxr f) ∧ t.xer = s.xer &&& 0x0FFFFFFF)

/-! ## Exceptions (60_exceptions.md) -/

/-- R330, R338: exception entry, register by register.  With MSR[ILE] = 1 it stops (D8).  The model's choices among
the clauses: POW (bit 18), SE (10) and BE (9) are zero after entry even where the function is not implemented and R67
makes the bit reserved (log entry 13); a system reset or machine check is recoverable, and closes every window, where
MSR[RI] = 1 before entry, and nonrecoverable, leaving the windows and `storedSince`, where it is 0 (log entry 12).
The spec marks as supplied by itself, whole or in part: R330 (log entry 10). -/
def Obligations.ExceptionEntryRegisters : Prop :=
  ∀ (e : Exception) (resume : Word) (s : State),
    (msrILE s.msr = true → enter e resume s = .refused .littleEndianMode) ∧
    (msrILE s.msr = false → ∃ t, enter e resume s = .next t ∧
      t.srr0 = effective s resume ∧
      (∀ k ∈ [18, 15, 14, 13, 11, 10, 9, 8, 5, 4, 1, 0], t.msr.getLsbD k = false) ∧
      t.msr.getLsbD 12 = (s.msr.getLsbD 12 && decide (e ≠ .machineCheck)) ∧
      t.msr.getLsbD 63 = (if is64 s.cfg then (if hasBridge s.cfg then s.msr.getLsbD 61 else true) else s.msr.getLsbD 63) ∧
      (∀ k, k ∉ [63, 18, 15, 14, 13, 12, 11, 10, 9, 8, 5, 4, 1, 0] → t.msr.getLsbD k = s.msr.getLsbD k) ∧
      t.pc = vector s.cfg s.msr e ∧
      ((e ≠ .systemReset ∧ e ≠ .machineCheck) ∨ s.msr.getLsbD 1 = true →
        t.windows = Windows.closed ∧ t.storedSince = []) ∧
      (e = .systemReset ∨ e = .machineCheck → s.msr.getLsbD 1 = false →
        t.windows = s.windows ∧ t.storedSince = s.storedSince) ∧
      sameMemory s t ∧
      t = { s with srr0 := t.srr0, srr1 := t.srr1, msr := t.msr, pc := t.pc, windows := t.windows,
                   storedSince := t.storedSince, excCount := s.excCount + 1 })

/-- R95, R330, R336: what entry saves in SRR1, with the masks of R95 and the four values of R336 written out.  A saved
MSR bit that is not reserved stands at its own place; a reserved bit that holds zero is saved as zero (what a reserved
one is saved as is the model's choice, log entry 5); a position that no MSR bit is saved in holds the
exception-specific information.
The spec marks as supplied by itself, whole or in part: R95, R330, R336 (log entry 10). -/
def Obligations.ExceptionEntrySavesTheMsr : Prop :=
  ∀ (e : Exception) (resume : Word) (s : State) (k : Nat) (saved info : Word),
    saved = (if is64 s.cfg then 0xFFFFFFFF87C0FFFF else 0x0000000087C0FFFF) →
    info = (if e = .program .floatingPointEnabled then 0x00100000
      else if e = .program .illegalInstruction then 0x00080000
      else if e = .program .privilegedInstruction then 0x00040000
      else if e = .program .trap then 0x00020000 else 0) →
    (saved.getLsbD k = true → (msrReserved s.cfg).getLsbD k = false →
      (entered e resume s).srr1.getLsbD k = s.msr.getLsbD k) ∧
    (saved.getLsbD k = true → s.msr.getLsbD k = false → (entered e resume s).srr1.getLsbD k = false) ∧
    (saved.getLsbD k = false → (entered e resume s).srr1.getLsbD k = info.getLsbD k)

/-- R332: the vector's address is the exception's offset behind the prefix that MSR[IP] selects.
The spec marks as supplied by itself, whole or in part: R332 (log entry 10). -/
def Obligations.VectorAddress : Prop :=
  (∀ (p : Params) (m : Word) (e : Exception),
    vector p m e = (if is64 p then (if msrIP m then 0xFFFFFFFFFFF00000 else 0)
      else (if msrIP m then 0x00000000FFF00000 else 0)) + e.offset) ∧
  Exception.systemReset.offset = 0x00100 ∧ Exception.machineCheck.offset = 0x00200 ∧
  Exception.dsi.offset = 0x00300 ∧ Exception.isi.offset = 0x00400 ∧ Exception.external.offset = 0x00500 ∧
  Exception.alignment.offset = 0x00600 ∧ (∀ c, (Exception.program c).offset = 0x00700) ∧
  Exception.fpUnavailable.offset = 0x00800 ∧ Exception.decrementer.offset = 0x00900 ∧
  Exception.systemCall.offset = 0x00C00 ∧ Exception.trace.offset = 0x00D00

/-- R339, R95: the return from an exception undoes its entry, for a context-synchronizing exception taken with no
window open: it resumes at the instruction saved, with every MSR bit restored that entry saves and that is not
reserved.
The spec marks as supplied by itself, whole or in part: R95, R339 (log entry 10). -/
def Obligations.ReturnUndoesExceptionEntry : Prop :=
  ∀ (e : Exception) (s : State), s.Inv → s.windows.msr = 0 → msrILE s.msr = false → synchronizes e s = true →
    ∃ t, exec (if is64 s.cfg then .rfid else .rfi) (entered e s.pc s) = .next t ∧ t.pc = effective s s.pc ∧
      (∀ k, (savedMask s.cfg).getLsbD k = true → (msrReserved s.cfg).getLsbD k = false →
        t.msr.getLsbD k = s.msr.getLsbD k)

/-- R275, R340 (a), D28: a supervisor-level instruction executed at user level takes the privileged instruction type
program exception at its own address and does nothing else; with MSR[ILE] = 1 that entry stops (D8).  Two of the
instructions it says so of exist by the model's choice: the segment register moves of a 64-bit implementation with the
bridge (log entry 34), and **tlbia** on every implementation (log entry 24).
The spec marks as supplied by itself, whole or in part: R275, R340 (log entry 10). -/
def Obligations.SupervisorInstructionsTrapAtUserLevel : Prop :=
  ∀ (i : Instr) (s : State), supervisorInstr i = true → existsOn s.cfg i = true → userMode s = true →
    exec i s = enter (.program .privilegedInstruction) s.pc s ∧
    (msrILE s.msr = false → exec i s = .next (entered (.program .privilegedInstruction) s.pc s))

/-- R181: **mfspr** and **mtspr** of a supervisor-level register at user level raise the privileged instruction type
program exception before any other effect; XER, LR and CTR are accessible at both levels. -/
def Obligations.SupervisorSprsTrapAtUserLevel : Prop :=
  ∀ (s : State) (r : GprNum) (n : SprNum) (q : Spr), userMode s = true →
    (readableSpr s.cfg n = some q → q ∉ [.xer, .lr, .ctr] →
      exec (.mfspr r n) s = enter (.program .privilegedInstruction) s.pc s) ∧
    (writableSpr s.cfg n = some q → q ∉ [.xer, .lr, .ctr] →
      exec (.mtspr n r) s = enter (.program .privilegedInstruction) s.pc s) ∧
    (q ∈ [.xer, .lr, .ctr] → readableSpr s.cfg n = some q →
      exec (.mfspr r n) s = .next (advance (writeGpr s r (readSpr s q)))) ∧
    (q ∈ [.xer, .lr, .ctr] → writableSpr s.cfg n = some q →
      exec (.mtspr n r) s = .next (advance (writeSpr s q (readGpr s r))))

/-- R184, R191, R207, U2, D4: what an undefined SPR or TBR number does, and a segment register move on a 64-bit
implementation without the bridge, for each value of the parameter `UNDEF_SPR`.  That the segment register moves count
as supervisor-level where the parameter is `byPrivilegeBit` is the model's choice (log entries 28 and 34).
The spec marks as supplied by itself, whole or in part: R184, R191 (log entry 10). -/
def Obligations.UndefinedSprNumbers : Prop :=
  ∀ (i : Instr) (s : State) (r : Refusal) (supervisor : Bool),
    ((∃ n : SprNum, r = .undefinedSpr n ∧ supervisor = n.getLsbD 4 ∧
        ((∃ rD, i = .mfspr rD n ∧ readableSpr s.cfg n = none) ∨ (∃ rS, i = .mtspr n rS ∧ writableSpr s.cfg n = none) ∨
          (∃ rD, i = .mftb rD n ∧ n ≠ 268 ∧ n ≠ 269))) ∨
      (r = .absentOnImplementation ∧ supervisor = true ∧ is64 s.cfg = true ∧ hasBridge s.cfg = false ∧
        ((∃ n rS, i = .mtsr n rS) ∨ (∃ rS rB, i = .mtsrin rS rB) ∨ (∃ rD n, i = .mfsr rD n) ∨
          (∃ rD rB, i = .mfsrin rD rB)))) →
    (s.cfg.undefSpr = .illegal → exec i s = enter (.program .illegalInstruction) s.pc s) ∧
    (s.cfg.undefSpr = .privileged → exec i s = enter (.program .privilegedInstruction) s.pc s) ∧
    (s.cfg.undefSpr = .refuse → exec i s = .refused r) ∧
    (s.cfg.undefSpr = .byPrivilegeBit → userMode s = false → exec i s = .refused r) ∧
    (s.cfg.undefSpr = .byPrivilegeBit → userMode s = true → exec i s =
      enter (.program (if supervisor then .privilegedInstruction else .illegalInstruction)) s.pc s)

/-- R344: a floating-point instruction with MSR[FP] = 0 takes the floating-point unavailable exception at its own
address, and writes nothing else.
The spec marks as supplied by itself, whole or in part: R344 (log entry 10). -/
def Obligations.FloatingPointUnavailable : Prop :=
  ∀ (i : Instr) (s : State), fpInstr i = true → msrFP (contextMsr s) = false →
    exec i s = enter .fpUnavailable s.pc s ∧
    (msrILE s.msr = false → exec i s = .next (entered .fpUnavailable s.pc s))

/-- R347: after an instruction that took no exception and is not stopped by an implicit branch (`FetchStops`), the
trace exception: for MSR[SE] = 1 before the instruction, all but **rfi**, **rfid** and **sc**; for MSR[BE] = 1, the
branches.  It saves the address of the next instruction; the reserved MSR bits it saves are read afresh (R10, log
entry 2).
The spec marks as supplied by itself, whole or in part: R347 (log entry 10). -/
def Obligations.TraceExceptions : Prop :=
  ∀ (i : Instr) (s t : State), exec i s = .next t → t.excCount = s.excCount → implicitBranch i s t = false →
    fpTrapDue t = false → msrILE t.msr = false →
    ((s.cfg.hasSe = true ∧ msrSE (contextMsr s) = true ∧ i ≠ .rfi ∧ i ≠ .rfid ∧ i ≠ .sc) ∨
      (s.cfg.hasBe = true ∧ msrBE (contextMsr s) = true ∧
        ((∃ li aa lk, i = .b li aa lk) ∨ (∃ bo bi bd aa lk, i = .bc bo bi bd aa lk) ∨
          (∃ bo bi lk, i = .bclr bo bi lk) ∨ (∃ bo bi lk, i = .bcctr bo bi lk))) →
      complete i s t = .next (entered .trace t.pc { t with freeCtr := t.freeCtr + 1 })) ∧
    (¬((s.cfg.hasSe = true ∧ msrSE (contextMsr s) = true ∧ i ≠ .rfi ∧ i ≠ .rfid ∧ i ≠ .sc) ∨
      (s.cfg.hasBe = true ∧ msrBE (contextMsr s) = true ∧
        ((∃ li aa lk, i = .b li aa lk) ∨ (∃ bo bi bd aa lk, i = .bc bo bi bd aa lk) ∨
          (∃ bo bi lk, i = .bclr bo bi lk) ∨ (∃ bo bi lk, i = .bcctr bo bi lk)))) →
      complete i s t = .next t)

/-- R360, R350: `n` ticks add `n` to the time base and take `n` from the decrementer; a request is pending after them
if one was before, or if some tick took DEC{0} from zero to one.
The spec marks as supplied by itself, whole or in part: R360 (log entry 10). -/
def Obligations.TicksCountAndSignal : Prop :=
  ∀ (n : Nat) (s : State),
    (ticks n s).tb = s.tb + BitVec.ofNat 64 n ∧ (ticks n s).dec = s.dec - BitVec.ofNat 32 n ∧
    ((ticks n s).decPending = true ↔ s.decPending = true ∨
      ∃ k < n, (s.dec - BitVec.ofNat 32 k).getLsbD 31 = false ∧ (s.dec - BitVec.ofNat 32 (k + 1)).getLsbD 31 = true) ∧
    ticks n s = { s with tb := (ticks n s).tb, dec := (ticks n s).dec, decPending := (ticks n s).decPending }

/-- R352, R354, R356, R360: a boundary applies its input's ticks, then looks for an asynchronous exception.  System
reset comes first, then machine check (with MSR[ME] = 0 the checkstop), then with MSR[EE] = 1 the external interrupt,
then the decrementer, whose request it cancels; otherwise none.
The spec marks as supplied by itself, whole or in part: R352, R354, R356, R360 (log entry 10). -/
def Obligations.BoundaryExceptionOrder : Prop :=
  ∀ (inp : BoundaryInput) (s : State),
    (inp.sresetIn = true → asynchronous inp s = enter .systemReset s.pc s) ∧
    (inp.sresetIn = false → inp.mcIn = true → msrME (contextMsr s) = true →
      asynchronous inp s = enter .machineCheck s.pc s) ∧
    (inp.sresetIn = false → inp.mcIn = true → msrME (contextMsr s) = false →
      asynchronous inp s = .fault .checkstop) ∧
    (inp.sresetIn = false → inp.mcIn = false →
      (msrEE s.msr = true → inp.extInt = true → asynchronous inp s = enter .external s.pc s) ∧
      (msrEE s.msr = true → inp.extInt = false → s.decPending = true →
        asynchronous inp s = enter .decrementer s.pc { s with decPending := false }) ∧
      (msrEE s.msr = true → inp.extInt = false → s.decPending = false → asynchronous inp s = .next s) ∧
      (msrEE s.msr = false → asynchronous inp s = .next s)) ∧
    (∀ rest, s.inputs = inp :: rest → boundary s = asynchronous inp (ticks inp.ticks { s with inputs := rest }))

/-- R104: a breakpoint match, byte by byte.
The spec marks as supplied by itself, whole or in part: R104 (log entry 10). -/
def Obligations.DataBreakpointMatch : Prop :=
  ∀ (s : State) (kind : Access) (ea : Word) (n : Nat), s.cfg.hasDabr = true →
    (dabrMatch s kind ea n = true ↔
      ∃ k < n, effective s (ea + BitVec.ofNat 64 k) >>> 3 = s.dabr >>> 3 ∧
        msrDR (contextMsr s) = s.dabr.getLsbD 2 ∧
        ((kind = .store ∧ s.dabr.getLsbD 1 = true) ∨ (kind = .load ∧ s.dabr.getLsbD 0 = true)))

/-- R284, R286, R301, R342: a load or store that the breakpoint matches takes the DSI exception at its own address,
with the DAR its effective address and the DSISR's bits 9 and, for a store, 6; no register is loaded and no byte
stored.  **eciwx** is a load and **ecowx** a store for the breakpoint: with EAR[E] = 0 (in the EAR the instruction
sees, `WindowContext`) they take the exception with the DSISR's bit 11, with EAR[E] = 1 by the breakpoint, and
transfer nothing (that EAR[E] is checked before the breakpoint is the model's choice, log entry 14).  That the DAR of
a string holds the address of its first byte is the model's choice (log entry 19).
The spec marks as supplied by itself, whole or in part: R284, R301, R342 (log entry 10). -/
def Obligations.DataAccessesRaiseDsi : Prop :=
  ∀ s : State, msrILE s.msr = false →
    (∀ (rD rA : GprNum) (d : BitVec 16), (wordAligned (eaDisp s rA d) = true ∨ s.cfg.misaligned = .bytewise) →
      dabrMatch s .load (eaDisp s rA d) 4 = true →
      exec (.lwz rD rA d) s = .next (entered .dsi s.pc
        { s with dar := effective s (eaDisp s rA d), dsisr := 0x00400000 })) ∧
    (∀ rD rA rB : GprNum, lswxInvalid rD rA rB (xerByteCount s.xer) = false →
      dabrMatch s .load (eaIndexed s rA rB) (xerByteCount s.xer) = true →
      exec (.lswx rD rA rB) s = .next (entered .dsi s.pc
        { s with dar := effective s (eaIndexed s rA rB), dsisr := 0x00400000 })) ∧
    (∀ rS rA rB : GprNum, dabrMatch s .store (eaIndexed s rA rB) (xerByteCount s.xer) = true →
      exec (.stswx rS rA rB) s = .next (entered .dsi s.pc
        { s with dar := effective s (eaIndexed s rA rB), dsisr := 0x02400000 })) ∧
    (∀ r rA rB : GprNum, s.cfg.hasEar = true → wordAligned (eaIndexed s rA rB) = true →
      ((contextEar s).getLsbD 31 = false →
        exec (.eciwx r rA rB) s = .next (entered .dsi s.pc
          { s with dar := effective s (eaIndexed s rA rB), dsisr := 0x00100000 }) ∧
        exec (.ecowx r rA rB) s = .next (entered .dsi s.pc
          { s with dar := effective s (eaIndexed s rA rB), dsisr := 0x02100000 })) ∧
      ((contextEar s).getLsbD 31 = true →
        (dabrMatch s .load (eaIndexed s rA rB) 4 = true → exec (.eciwx r rA rB) s = .next (entered .dsi s.pc
          { s with dar := effective s (eaIndexed s rA rB), dsisr := 0x00400000 })) ∧
        (dabrMatch s .store (eaIndexed s rA rB) 4 = true → exec (.ecowx r rA rB) s = .next (entered .dsi s.pc
          { s with dar := effective s (eaIndexed s rA rB), dsisr := 0x02400000 }))))

/-- R126, R343, D10: a misaligned **lwz** with `MISALIGNED` = `alignment` takes the alignment exception with the DAR
the effective address (the DSISR is left free); with `refuse` it stops.
The spec marks as supplied by itself, whole or in part: R126 (log entry 10). -/
def Obligations.MisalignedLoadWord : Prop :=
  ∀ (s : State) (rD rA : GprNum) (d : BitVec 16), wordAligned (eaDisp s rA d) = false →
    (s.cfg.misaligned = .alignment → msrILE s.msr = false →
      ∃ v, exec (.lwz rD rA d) s = .next (entered .alignment s.pc
        { s with dar := effective s (eaDisp s rA d), dsisr := v })) ∧
    (s.cfg.misaligned = .refuse → exec (.lwz rD rA d) s = .refused .misalignedLoad)

/-- D24, R158: the forms that stop: an instruction the implementation does not have (R197, R198, R274, R276, R284,
R287; the segment register moves of R207 are in `UndefinedSprNumbers`); **bcctr** with BO{2} = 0 (R260); a compare
with L = 1 on a 32-bit implementation (R240); an **lswx** that loads an address register (R308).  That existence is
checked before the level and the operands is the model's choice (log entry 23).
The spec marks as supplied by itself, whole or in part: R197, R240, R260, R274, R276, R284, R287, R308 (log entry 10). -/
def Obligations.InvalidFormsStop : Prop :=
  ∀ s : State,
    (∀ i, segmentInstr i = false → existsOn s.cfg i = false → exec i s = .refused .absentOnImplementation) ∧
    (∀ (bo bi : BitVec 5) (lk : Bool), bo.getLsbD 2 = false → exec (.bcctr bo bi lk) s = .refused .invalidForm) ∧
    (is64 s.cfg = false → ∀ (f : FieldNum) (rA rB : GprNum) (v : BitVec 16),
      exec (.cmp f true rA rB) s = .refused .invalidForm ∧ exec (.cmpi f true rA v) s = .refused .invalidForm ∧
      exec (.cmpl f true rA rB) s = .refused .invalidForm ∧ exec (.cmpli f true rA v) s = .refused .invalidForm) ∧
    (∀ rD rA rB : GprNum, (rD = rA ∨ rD = rB ∨
      ∃ j < (xerByteCount s.xer + 3) / 4, rD + BitVec.ofNat 5 j = rA ∨ rD + BitVec.ofNat 5 j = rB) →
      exec (.lswx rD rA rB) s = .refused .invalidForm)

/-- The values and addresses on which an instruction stops because no source defines what follows.  In supervisor
mode: an IBATnL value with W or G set (R76), SDR1 while translation is on (R408), an MSR value of D8, D9 or D20 that
**mtmsr**, **mtmsrd** (R199 (e)), **rfi** or **rfid** (R272, R274, R276) would establish, a segment register move
through the bridge (R207, log entry 34).  Such an MSR value has POW set where the function is implemented, or LE, or
IR or DR; where more than one is set the stop has the first one's name, by the model's choice (log entry 21).  In both modes: a load or store that cannot be transferred (R123, R124,
R143), and external control at a misaligned address (R126) or with translation on (R123); the order of its checks is
log entry 14's.
The spec marks as supplied by itself, whole or in part: R123, R124, R126, R143, R274, R276, R408 (log entry 10). -/
def Obligations.UndefinedOperandsStop : Prop :=
  (∀ (p : Params) (m : Word),
    (p.hasPow = true → m.getLsbD 18 = true → unsupportedMsr p m = some .powerManagement) ∧
    (p.hasPow = false ∨ m.getLsbD 18 = false →
      (m.getLsbD 0 = true → unsupportedMsr p m = some .littleEndianMode) ∧
      (m.getLsbD 0 = false → m.getLsbD 5 = true ∨ m.getLsbD 4 = true →
        unsupportedMsr p m = some .addressTranslation) ∧
      (m.getLsbD 0 = false → m.getLsbD 5 = false → m.getLsbD 4 = false → unsupportedMsr p m = none))) ∧
  ∀ s : State,
    (userMode s = false →
      (∀ (n : SprNum) (rS : GprNum) (i : Fin 8), writableSpr s.cfg n = some (.ibat i) → i.val % 2 = 1 →
        readGpr s rS &&& 0x48 ≠ 0 → exec (.mtspr n rS) s = .refused .ibatUndefinedBits) ∧
      (∀ rS : GprNum, msrIR (contextMsr s) = true ∨ msrDR (contextMsr s) = true →
        exec (.mtspr 25 rS) s = .refused .sdr1WhileTranslating) ∧
      (∀ (rS : GprNum) (i : Instr) (m : Word) (r : Refusal), unsupportedMsr s.cfg m = some r →
        ((i = .mtmsr rS ∧ is64 s.cfg = false ∧ m = (readGpr s rS &&& 0x00000000FFFFFFFF)) ∨
          (i = .mtmsr rS ∧ hasBridge s.cfg = true ∧
            m = (s.msr &&& 0xFFFFFFFF00000000) ||| (readGpr s rS &&& 0x00000000FFFFFFFF)) ∨
          (i = .mtmsrd rS ∧ is64 s.cfg = true ∧ m = readGpr s rS) ∨
          (i = .rfi ∧ (is64 s.cfg = false ∨ hasBridge s.cfg = true) ∧
            m = (s.msr &&& 0xFFFFFFFF783F0000) ||| (s.srr1 &&& 0x0000000087C0FFFF)) ∨
          (i = .rfid ∧ is64 s.cfg = true ∧ m = (s.msr &&& 0x00000000783F0000) ||| (s.srr1 &&& 0xFFFFFFFF87C0FFFF))) →
        exec i s = .refused r) ∧
      (∀ i, segmentInstr i = true → hasBridge s.cfg = true → exec i s = .refused .segmentBridge)) ∧
    (∀ (rD rA : GprNum) (d : BitVec 16) (r : Refusal),
      (wordAligned (eaDisp s rA d) = true ∨ s.cfg.misaligned = .bytewise) →
      dabrMatch s .load (eaDisp s rA d) 4 = false → accessRefusal s (eaDisp s rA d) 4 = some r →
      exec (.lwz rD rA d) s = .refused r) ∧
    (∀ (rD rA rB : GprNum) (r : Refusal), lswxInvalid rD rA rB (xerByteCount s.xer) = false →
      dabrMatch s .load (eaIndexed s rA rB) (xerByteCount s.xer) = false →
      accessRefusal s (eaIndexed s rA rB) (xerByteCount s.xer) = some r →
      exec (.lswx rD rA rB) s = .refused r) ∧
    (∀ (rS rA rB : GprNum) (r : Refusal), dabrMatch s .store (eaIndexed s rA rB) (xerByteCount s.xer) = false →
      accessRefusal s (eaIndexed s rA rB) (xerByteCount s.xer) = some r →
      exec (.stswx rS rA rB) s = .refused r) ∧
    (∀ (ea : Word) (n : Nat), n ≠ 0 →
      (msrDR (contextMsr s) = true → accessRefusal s ea n = some .addressTranslation) ∧
      (msrDR (contextMsr s) = false → (∃ k < n, mapped s.cfg (byteAddr s ea k) = false) →
        accessRefusal s ea n = some .noMemory) ∧
      (msrDR (contextMsr s) = false → (∀ k < n, mapped s.cfg (byteAddr s ea k) = true) →
        msrLE (contextMsr s) = true → accessRefusal s ea n = some .littleEndianMode)) ∧
    (∀ r rA rB : GprNum, s.cfg.hasEar = true →
      (wordAligned (eaIndexed s rA rB) = false →
        exec (.eciwx r rA rB) s = .refused .misalignedExternalControl ∧
        exec (.ecowx r rA rB) s = .refused .misalignedExternalControl) ∧
      (wordAligned (eaIndexed s rA rB) = true → (contextEar s).getLsbD 31 = true → msrDR (contextMsr s) = true →
        (dabrMatch s .load (eaIndexed s rA rB) 4 = false → exec (.eciwx r rA rB) s = .refused .addressTranslation) ∧
        (dabrMatch s .store (eaIndexed s rA rB) 4 = false → exec (.ecowx r rA rB) s = .refused .addressTranslation)))

/-! ## Register moves (40_register_moves.md) -/

/-- R182, R183, R181, R114, R184: **mfspr** of a register the level may read: the number of each register that can be
read, and where it exists.  A bit of the register that is not reserved stands in rD; a reserved bit that holds zero
reads as zero.
The spec marks as supplied by itself, whole or in part: R114, R183, R184 (log entry 10). -/
def Obligations.MfsprResult : Prop :=
  (∀ (p : Params) (n : SprNum) (r : Spr), readableSpr p n = some r ↔
    (n.toNat, r) ∈ [(1, .xer), (8, .lr), (9, .ctr), (18, .dsisr), (19, .dar), (22, .dec), (25, .sdr1), (26, .srr0),
      (27, .srr1), (272, .sprg 0), (273, .sprg 1), (274, .sprg 2), (275, .sprg 3), (280, .asr), (282, .ear),
      (287, .pvr), (528, .ibat 0), (529, .ibat 1), (530, .ibat 2), (531, .ibat 3), (532, .ibat 4), (533, .ibat 5),
      (534, .ibat 6), (535, .ibat 7), (536, .dbat 0), (537, .dbat 1), (538, .dbat 2), (539, .dbat 3), (540, .dbat 4),
      (541, .dbat 5), (542, .dbat 6), (543, .dbat 7), (1013, .dabr), (1022, .fpecr), (1023, .pir)] ∧
    (r = .asr → is64 p = true) ∧ (r = .ear → p.hasEar = true) ∧ (r = .dabr → p.hasDabr = true) ∧
    (r = .fpecr → p.hasFpecr = true) ∧ (r = .pir → p.hasPir = true)) ∧
  ∀ (s : State) (rD : GprNum) (n : SprNum) (r : Spr), readableSpr s.cfg n = some r →
    (userMode s = false ∨ r ∈ [.xer, .lr, .ctr]) →
    ∃ t v, exec (.mfspr rD n) s = .next t ∧ readGpr t rD = toWidth s.cfg v ∧ t.pc = nextPc s ∧ OnlyGpr rD s t ∧
      (r ∈ [.lr, .ctr, .dsisr, .dar, .dec, .srr0, .srr1, .sprg 0, .sprg 1, .sprg 2, .sprg 3, .pvr, .dabr, .fpecr, .pir] →
        v = storedSpr s r) ∧
      (∀ k, (storedSpr s r).getLsbD k = false → v.getLsbD k = false) ∧
      (r = .xer → ∀ k, k < 7 ∨ 29 ≤ k → v.getLsbD k = (storedSpr s r).getLsbD k) ∧
      (r = .sdr1 → ∀ k, (sdr1Reserved s.cfg).getLsbD k = false → v.getLsbD k = s.sdr1.getLsbD k) ∧
      (r = .asr → ∀ k, (asrReserved s.cfg).getLsbD k = false → v.getLsbD k = s.asr.getLsbD k) ∧
      (r = .ear → ∀ k, k < s.cfg.ridBits.val ∨ k = 31 → v.getLsbD k = s.ear.getLsbD k) ∧
      (∀ i : Fin 8, r = .ibat i → ∀ k, (batReserved i).getLsbD k = false →
        v.getLsbD k = (s.ibat[i.val]'i.isLt).getLsbD k) ∧
      (∀ i : Fin 8, r = .dbat i → ∀ k, (batReserved i).getLsbD k = false →
        v.getLsbD k = (s.dbat[i.val]'i.isLt).getLsbD k)

/-- R186 to R189, R192, R183, R114, R184, R402, R407 to R411: **mtspr** to a register the level may write, with a
value the spec lets be written: the number of each register that can be written, and where it exists.  The register
takes the value, W bits or the low-order 32; every other SPR keeps its own; a DEC whose bit 0 goes from zero to one
signals a request; a new value of the ASR, SDR1, the EAR or a BAT register opens that register's window, the EAR's
window keeping the value before it; nothing else changes but the pc.  FPECR and PIR are 32 bits wide by the model's
choice (log entry 17), and a window opens only where the value changes (log entry 11).
The spec marks as supplied by itself, whole or in part: R114, R183, R184, R402, R408 (log entry 10). -/
def Obligations.MtsprResult : Prop :=
  (∀ (p : Params) (n : SprNum) (r : Spr), writableSpr p n = some r ↔
    (n.toNat, r) ∈ [(1, .xer), (8, .lr), (9, .ctr), (18, .dsisr), (19, .dar), (22, .dec), (25, .sdr1), (26, .srr0),
      (27, .srr1), (272, .sprg 0), (273, .sprg 1), (274, .sprg 2), (275, .sprg 3), (280, .asr), (282, .ear),
      (284, .tbl), (285, .tbu), (528, .ibat 0), (529, .ibat 1), (530, .ibat 2), (531, .ibat 3), (532, .ibat 4),
      (533, .ibat 5), (534, .ibat 6), (535, .ibat 7), (536, .dbat 0), (537, .dbat 1), (538, .dbat 2), (539, .dbat 3),
      (540, .dbat 4), (541, .dbat 5), (542, .dbat 6), (543, .dbat 7), (1013, .dabr), (1022, .fpecr), (1023, .pir)] ∧
    (r = .asr → is64 p = true) ∧ (r = .ear → p.hasEar = true) ∧ (r = .dabr → p.hasDabr = true) ∧
    (r = .fpecr → p.hasFpecr = true) ∧ (r = .pir → p.hasPir = true)) ∧
  ∀ (s : State) (rS : GprNum) (n : SprNum) (r : Spr), writableSpr s.cfg n = some r →
    (userMode s = false ∨ r ∈ [.xer, .lr, .ctr]) →
    (∀ i : Fin 8, r = .ibat i → i.val % 2 = 1 → readGpr s rS &&& 0x48 = 0) →
    (r = .sdr1 → msrIR (contextMsr s) = false ∧ msrDR (contextMsr s) = false) →
    ∃ t, exec (.mtspr n rS) s = .next t ∧ t.pc = nextPc s ∧
      (r.narrow = true → storedSpr t r = (readGpr s rS &&& 0x00000000FFFFFFFF)) ∧
      (r.narrow = false → r ≠ .asr → storedSpr t r = toWidth s.cfg (readGpr s rS)) ∧
      (r = .asr → t.asr = readGpr s rS) ∧
      (∀ q, q ≠ r → storedSpr t q = storedSpr s q) ∧
      (t.decPending = true ↔ s.decPending = true ∨
        (r = .dec ∧ s.dec.getLsbD 31 = false ∧ (readGpr s rS).getLsbD 31 = true)) ∧
      (t.windows.asr = true ↔ s.windows.asr = true ∨ (r = .asr ∧ readGpr s rS ≠ s.asr)) ∧
      (t.windows.sdr1 = true ↔ s.windows.sdr1 = true ∨ (r = .sdr1 ∧ toWidth s.cfg (readGpr s rS) ≠ s.sdr1)) ∧
      t.windows.ear = (if r = .ear ∧ (readGpr s rS).setWidth 32 ≠ s.ear then s.ear :: s.windows.ear
        else s.windows.ear) ∧
      (∀ j : Fin 8, (t.windows.ibat.getLsbD j = true ↔ s.windows.ibat.getLsbD j = true ∨
        (r = .ibat j ∧ toWidth s.cfg (readGpr s rS) ≠ s.ibat[j.val]'j.isLt))) ∧
      (∀ j : Fin 8, (t.windows.dbat.getLsbD j = true ↔ s.windows.dbat.getLsbD j = true ∨
        (r = .dbat j ∧ toWidth s.cfg (readGpr s rS) ≠ s.dbat[j.val]'j.isLt))) ∧
      sameMemory s t ∧
      t = { s with xer := t.xer, lr := t.lr, ctr := t.ctr, dsisr := t.dsisr, dar := t.dar, dec := t.dec,
                   decPending := t.decPending, sdr1 := t.sdr1, srr0 := t.srr0, srr1 := t.srr1, sprg := t.sprg,
                   asr := t.asr, ear := t.ear, tb := t.tb, ibat := t.ibat, dbat := t.dbat, dabr := t.dabr,
                   fpecr := t.fpecr, pir := t.pir, pc := t.pc,
                   windows := { s.windows with asr := t.windows.asr, sdr1 := t.windows.sdr1, ibat := t.windows.ibat,
                                               dbat := t.windows.dbat, ear := t.windows.ear } }

/-- R190: **mftb** reads the time base: TBR 268 gives TBL, all 64 bits on a 64-bit implementation; TBR 269 gives TBU.
The spec marks as supplied by itself, whole or in part: R190 (log entry 10). -/
def Obligations.MftbResult : Prop :=
  ∀ (s : State) (rD : GprNum), ∃ t u,
    exec (.mftb rD 268) s = .next t ∧ exec (.mftb rD 269) s = .next u ∧
    readGpr t rD = (if is64 s.cfg then s.tb else s.tb &&& 0x00000000FFFFFFFF) ∧ readGpr u rD = s.tb >>> 32 ∧
    t.pc = nextPc s ∧ u.pc = nextPc s ∧ OnlyGpr rD s t ∧ OnlyGpr rD s u

/-- R194, R20: **mfmsr** in supervisor mode: every MSR bit that is not reserved, and zero for a reserved one that
holds zero.
The spec marks as supplied by itself, whole or in part: R20, R194 (log entry 10). -/
def Obligations.MfmsrResult : Prop :=
  ∀ (s : State) (rD : GprNum), userMode s = false → fitsWidth s.cfg s.msr →
    ∃ t, exec (.mfmsr rD) s = .next t ∧ t.pc = nextPc s ∧ OnlyGpr rD s t ∧
      (∀ k, (msrReserved s.cfg).getLsbD k = false → (readGpr t rD).getLsbD k = s.msr.getLsbD k) ∧
      (∀ k, s.msr.getLsbD k = false → (readGpr t rD).getLsbD k = false)

/-- R196 to R199, R404: **mtmsr** and **mtmsrd** in supervisor mode, with a value whose POW, LE, IR and DR the model
supports.  A changed bit of SF, PR, FP, ME, FE0, FE1, IR, DR, and of SE and BE where they are implemented, opens its
window; EE, IP, ILE, RI and every other bit open none; nothing else changes but the MSR and the pc.
The spec marks as supplied by itself, whole or in part: R196, R197, R404 (log entry 10). -/
def Obligations.MoveToMsrResult : Prop :=
  ∀ (s : State) (rS : GprNum) (i : Instr) (m : Word), userMode s = false → unsupportedMsr s.cfg m = none →
    ((i = .mtmsr rS ∧ is64 s.cfg = false ∧ m = low32 (readGpr s rS)) ∨
      (i = .mtmsr rS ∧ hasBridge s.cfg = true ∧
        m = (s.msr &&& 0xFFFFFFFF00000000) ||| (readGpr s rS &&& 0x00000000FFFFFFFF)) ∨
      (i = .mtmsrd rS ∧ is64 s.cfg = true ∧ m = readGpr s rS)) →
    ∃ t, exec i s = .next t ∧ t.msr = m ∧ t.pc = nextPc s ∧
      (∀ k, t.windows.msr.getLsbD k = true ↔ s.windows.msr.getLsbD k = true ∨
        (s.msr.getLsbD k ≠ m.getLsbD k ∧ (k ∈ [63, 14, 13, 12, 11, 8, 5, 4] ∨ (k = 10 ∧ s.cfg.hasSe = true) ∨
          (k = 9 ∧ s.cfg.hasBe = true)))) ∧
      (∀ k ∈ [15, 6, 16, 1], t.windows.msr.getLsbD k = s.windows.msr.getLsbD k) ∧ sameMemory s t ∧
      t = { s with msr := m, pc := t.pc, windows := { s.windows with msr := t.windows.msr } }

/-- R200, R202, R402, R406: **mtsr** and **mtsrin** in supervisor mode of a 32-bit implementation.  A new value opens
the register's window (that the same value does not is log entry 11's).
The spec marks as supplied by itself, whole or in part: R200, R202, R402 (log entry 10). -/
def Obligations.SegmentRegisterWrites : Prop :=
  ∀ (s : State) (rS rB : GprNum) (n : SrNum) (i : Instr), is64 s.cfg = false → userMode s = false →
    (i = .mtsr n rS ∨ (i = .mtsrin rS rB ∧ n = (readGpr s rB).extractLsb' 28 4)) →
    ∃ t, exec i s = .next t ∧ t.pc = nextPc s ∧ (t.sr[n.toNat]'n.isLt) = (readGpr s rS).setWidth 32 ∧
      (∀ q : SrNum, q ≠ n → (t.sr[q.toNat]'q.isLt) = (s.sr[q.toNat]'q.isLt)) ∧
      (∀ q : SrNum, (t.windows.sr.getLsbD q.toNat = true ↔ s.windows.sr.getLsbD q.toNat = true ∨
        (q = n ∧ (readGpr s rS).setWidth 32 ≠ s.sr[n.toNat]'n.isLt))) ∧ sameMemory s t ∧
      t = { s with sr := t.sr, pc := t.pc, windows := { s.windows with sr := t.windows.sr } }

/-- R204, R206, R20, R85: **mfsr** and **mfsrin** in supervisor mode of a 32-bit implementation.
The spec marks as supplied by itself, whole or in part: R20 (log entry 10). -/
def Obligations.SegmentRegisterReads : Prop :=
  ∀ (s : State) (rD rB : GprNum) (n : SrNum) (i : Instr), is64 s.cfg = false → userMode s = false →
    (i = .mfsr rD n ∨ (i = .mfsrin rD rB ∧ n = (readGpr s rB).extractLsb' 28 4)) →
    ∃ t, exec i s = .next t ∧ t.pc = nextPc s ∧ OnlyGpr rD s t ∧
      (∀ k, (k < 24 ∨ 28 ≤ k ∨ (s.sr[n.toNat]'n.isLt).getLsbD 31 = true ∨ (s.sr[n.toNat]'n.isLt).getLsbD k = false) →
        (readGpr t rD).getLsbD k = (s.sr[n.toNat]'n.isLt).getLsbD k)

/-! ## CR, XER and FPSCR (41_cr_xer_fpscr.md) -/

/-- R222, R224: **mcrf** copies one CR field to another; **mtcrf** copies the CR fields its mask selects, CRM{0}
selecting CR0, from the low-order word of rS.
The spec marks as supplied by itself, whole or in part: R222, R224 (log entry 10). -/
def Obligations.CrMoveResult : Prop :=
  (∀ (s : State) (crfD crfS : FieldNum), ∃ t, exec (.mcrf crfD crfS) s = .next t ∧ t.pc = nextPc s ∧
    field4 t.cr crfD = field4 s.cr crfS ∧ OnlyCrField crfD s t) ∧
  (∀ (s : State) (crm : BitVec 8) (rS : GprNum), ∃ t, exec (.mtcrf crm rS) s = .next t ∧ t.pc = nextPc s ∧
    (∀ k < 32, t.cr.getLsbD k = if crm.getLsbD (k / 4) then (readGpr s rS).getLsbD k else s.cr.getLsbD k) ∧
    sameMemory s t ∧ t = { s with cr := t.cr, pc := t.pc })

/-- R64 (d), R210, R211, R214, R216, R218: CR0, OV and CA as an instruction with Rc or OE records them, on operands of W
bits, in 32-bit mode of a 64-bit implementation on the low-order words.  OV is set where the signed sum is not
representable.  Where a portion of the result is undefined, and for **mulhw**, **mulhwu**, **divw** and **divwu** in
64-bit mode, the first three bits of CR0 are undefined: nothing is said of them.
The spec marks as supplied by itself, whole or in part: R211, R214, R216, R218 (log entry 10). -/
def Obligations.RecordedFlagsByMode : Prop :=
  ∀ (s : State) (a b : Word) (c : Bool) (n : Nat), n = (if mode64 s then 64 else 32) →
    ((recordCr0 s a).cr.getLsbD 31 = true ↔ (a.setWidth n).toInt < 0) ∧
    ((recordCr0 s a).cr.getLsbD 30 = true ↔ 0 < (a.setWidth n).toInt) ∧
    ((recordCr0 s a).cr.getLsbD 29 = true ↔ (a.setWidth n).toInt = 0) ∧
    (∀ t ∈ [recordCr0 s a, recordCr0Word s a, recordCr0Undefined s], t.cr.getLsbD 28 = s.xer.getLsbD 31 ∧
      (∀ g, g ≠ 0 → field4 t.cr g = field4 s.cr g) ∧ t = { s with cr := t.cr }) ∧
    (mode64 s = false → recordCr0Word s a = recordCr0 s a) ∧
    (mode64 s = true → recordCr0Word s a = recordCr0Undefined s) ∧
    ((recordCa s a b c).xer.getLsbD 29 = true ↔ 2 ^ n ≤ (a.setWidth n).toNat + (b.setWidth n).toNat + c.toNat) ∧
    ((recordOv s a b c).xer.getLsbD 30 = true ↔
      (a.setWidth n).toInt + (b.setWidth n).toInt + c.toNat < -(2 ^ (n - 1) : Int) ∨
      (2 ^ (n - 1) : Int) ≤ (a.setWidth n).toInt + (b.setWidth n).toInt + c.toNat) ∧
    ((recordOv s a b c).xer.getLsbD 31 = true ↔
      s.xer.getLsbD 31 = true ∨ (recordOv s a b c).xer.getLsbD 30 = true) ∧
    (∀ k, k ≠ 29 → (recordCa s a b c).xer.getLsbD k = s.xer.getLsbD k) ∧
    (∀ k, k ≠ 30 → k ≠ 31 → (recordOv s a b c).xer.getLsbD k = s.xer.getLsbD k) ∧
    (∀ t ∈ [recordCa s a b c, recordOv s a b c], t = { s with xer := t.xer })

/-- R230: **mcrxr** copies SO, OV, CA and bit 3 of the XER to a CR field and clears them; bit 3 is reserved, so it
reads as zero if it holds zero (R20).
The spec marks as supplied by itself, whole or in part: R20, R230 (log entry 10). -/
def Obligations.McrxrResult : Prop :=
  ∀ (s : State) (crfD : FieldNum), ∃ t, exec (.mcrxr crfD) s = .next t ∧ t.pc = nextPc s ∧
    (field4 t.cr crfD).getLsbD 3 = s.xer.getLsbD 31 ∧ (field4 t.cr crfD).getLsbD 2 = s.xer.getLsbD 30 ∧
    (field4 t.cr crfD).getLsbD 1 = s.xer.getLsbD 29 ∧
    (s.xer.getLsbD 28 = false → (field4 t.cr crfD).getLsbD 0 = false) ∧
    (∀ f, f ≠ crfD → field4 t.cr f = field4 s.cr f) ∧
    t.xer = s.xer &&& 0x0FFFFFFF ∧ sameMemory s t ∧ t = { s with cr := t.cr, xer := t.xer, pc := t.pc }

/-- R33, R34, R20: the FPSCR as an instruction reads it: VX and FEX computed from the stored bits, every other bit but
the reserved one as it is stored.
The spec marks as supplied by itself, whole or in part: R20, R33, R34 (log entry 10). -/
def Obligations.FpscrSummaryBits : Prop :=
  ∀ s : State,
    ((visibleFpscr s).getLsbD 29 = true ↔ ∃ k ∈ [24, 23, 22, 21, 20, 19, 10, 9, 8], s.fpscr.getLsbD k = true) ∧
    ((visibleFpscr s).getLsbD 30 = true ↔
      ((visibleFpscr s).getLsbD 29 = true ∧ s.fpscr.getLsbD 7 = true) ∨
      (s.fpscr.getLsbD 28 = true ∧ s.fpscr.getLsbD 6 = true) ∨ (s.fpscr.getLsbD 27 = true ∧ s.fpscr.getLsbD 5 = true) ∨
      (s.fpscr.getLsbD 26 = true ∧ s.fpscr.getLsbD 4 = true) ∨ (s.fpscr.getLsbD 25 = true ∧ s.fpscr.getLsbD 3 = true)) ∧
    (∀ k, k ≠ 30 → k ≠ 29 → k ≠ 11 → (visibleFpscr s).getLsbD k = s.fpscr.getLsbD k) ∧
    (s.fpscr.getLsbD 11 = false → (visibleFpscr s).getLsbD 11 = false)

/-- R232, R231: **mcrfs** copies an FPSCR field, as it reads, to a CR field and clears the exception bits of the field
it copied.  It stops where a floating-point enabled exception is due after it (D26).
The spec marks as supplied by itself, whole or in part: R231, R232 (log entry 10). -/
def Obligations.McrfsResult : Prop :=
  ∀ (s : State) (crfD crfS : FieldNum) (f : Word32), msrFP (contextMsr s) = true →
    (∀ k, f.getLsbD k = (s.fpscr.getLsbD k && decide (k ≠ 30 ∧ k ≠ 29) &&
      !(decide (k / 4 = 7 - crfS.toNat) && (0x9FF80700#32).getLsbD k))) →
    (fpscrFEX f = true → msrFpMode (contextMsr s) ≠ .disabled →
      exec (.mcrfs crfD crfS) s = .refused .fpEnabledException) ∧
    (fpscrFEX f = false ∨ msrFpMode (contextMsr s) = .disabled →
      ∃ t, exec (.mcrfs crfD crfS) s = .next t ∧ t.pc = nextPc s ∧ t.fpscr = f ∧
        field4 t.cr crfD = field4 (visibleFpscr s) crfS ∧ (∀ g, g ≠ crfD → field4 t.cr g = field4 s.cr g) ∧
        sameMemory s t ∧ t = { s with cr := t.cr, fpscr := t.fpscr, pc := t.pc })

/-- R234, R235, R231, R212: **mtfsfi** and **mtfsf** write the FPSCR fields they select, but for FEX and VX; with Rc =
1 CR1 takes the FPSCR's first four bits as they then read.  They stop where a floating-point enabled exception is due
(D26).  That FI, written by them, does not set XX (R35) is the model's choice (log entry 35).
The spec marks as supplied by itself, whole or in part: R231, R234, R235 (log entry 10). -/
def Obligations.FpscrFieldWrites : Prop :=
  ∀ (s : State) (i : Instr) (rc : Bool) (f : Word32), msrFP (contextMsr s) = true →
    ((∃ (crfD : FieldNum) (imm : BitVec 4), i = .mtfsfi crfD imm rc ∧
        ∀ k, f.getLsbD k = (decide (k ≠ 30 ∧ k ≠ 29) &&
          if k < 32 ∧ k / 4 = 7 - crfD.toNat then imm.getLsbD (k % 4) else s.fpscr.getLsbD k)) ∨
      (∃ (fm : BitVec 8) (frB : FprNum), i = .mtfsf fm frB rc ∧
        ∀ k, f.getLsbD k = (decide (k ≠ 30 ∧ k ≠ 29) &&
          if k < 32 ∧ fm.getLsbD (k / 4) = true then (readFpr s frB).getLsbD k else s.fpscr.getLsbD k))) →
    (fpscrFEX f = true → msrFpMode (contextMsr s) ≠ .disabled → exec i s = .refused .fpEnabledException) ∧
    (fpscrFEX f = false ∨ msrFpMode (contextMsr s) = .disabled →
      ∃ t, exec i s = .next t ∧ t.pc = nextPc s ∧ t.fpscr = f ∧
        (rc = true → field4 t.cr 1 = field4 (visibleFpscr t) 0 ∧ ∀ g, g ≠ 1 → field4 t.cr g = field4 s.cr g) ∧
        (rc = false → t.cr = s.cr) ∧ sameMemory s t ∧ t = { s with cr := t.cr, fpscr := t.fpscr, pc := t.pc })

/-- R236, R238, R231, R212: **mtfsb0** and **mtfsb1** write one FPSCR bit, but for FEX and VX; **mtfsb1** sets FX as
well where it sets an exception bit that was zero.  CR1 and the stop as in `FpscrFieldWrites`; that **mtfsb1** of FI
does not set XX (R35) is the model's choice (log entry 35).
The spec marks as supplied by itself, whole or in part: R231, R236, R238 (log entry 10). -/
def Obligations.FpscrBitWrites : Prop :=
  ∀ (s : State) (i : Instr) (crbD : BitVec 5) (rc : Bool) (f : Word32), msrFP (contextMsr s) = true →
    ((i = .mtfsb0 crbD rc ∧
        ∀ k, f.getLsbD k = (s.fpscr.getLsbD k && decide (k ≠ 30 ∧ k ≠ 29 ∧ k ≠ 31 - crbD.toNat))) ∨
      (i = .mtfsb1 crbD rc ∧
        ∀ k, f.getLsbD k = (decide (k ≠ 30 ∧ k ≠ 29) && (s.fpscr.getLsbD k || decide (k = 31 - crbD.toNat) ||
          (decide (k = 31) && (0x1FF80700#32).getLsbD (31 - crbD.toNat) && !s.fpscr.getLsbD (31 - crbD.toNat)))))) →
    (fpscrFEX f = true → msrFpMode (contextMsr s) ≠ .disabled → exec i s = .refused .fpEnabledException) ∧
    (fpscrFEX f = false ∨ msrFpMode (contextMsr s) = .disabled →
      ∃ t, exec i s = .next t ∧ t.pc = nextPc s ∧ t.fpscr = f ∧
        (rc = true → field4 t.cr 1 = field4 (visibleFpscr t) 0 ∧ ∀ g, g ≠ 1 → field4 t.cr g = field4 s.cr g) ∧
        (rc = false → t.cr = s.cr) ∧ sameMemory s t ∧ t = { s with cr := t.cr, fpscr := t.fpscr, pc := t.pc })

/-- R240, R241, R213: **cmp** and **cmpi** write LT, GT, EQ of the signed comparison, and SO, to a CR field; L = 0
compares the low-order words, L = 1 (64-bit implementations) the whole registers.
The spec marks as supplied by itself, whole or in part: R240 (log entry 10). -/
def Obligations.SignedCompareResult : Prop :=
  ∀ (s : State) (crfD : FieldNum) (l : Bool) (rA : GprNum) (i : Instr) (a b : Int), (l = true → is64 s.cfg = true) →
    a = (if l then (readGpr s rA).toInt else ((readGpr s rA).setWidth 32).toInt) →
    ((∃ rB, i = .cmp crfD l rA rB ∧ b = (if l then (readGpr s rB).toInt else ((readGpr s rB).setWidth 32).toInt)) ∨
      (∃ v : BitVec 16, i = .cmpi crfD l rA v ∧ b = v.toInt)) →
    ∃ t, exec i s = .next t ∧ t.pc = nextPc s ∧ OnlyCrField crfD s t ∧
      (field4 t.cr crfD).getLsbD 3 = decide (a < b) ∧ (field4 t.cr crfD).getLsbD 2 = decide (b < a) ∧
      (field4 t.cr crfD).getLsbD 1 = decide (a = b) ∧ (field4 t.cr crfD).getLsbD 0 = s.xer.getLsbD 31

/-- R242, R243, R213: **cmpl** and **cmpli**: the same with the unsigned comparison. -/
def Obligations.UnsignedCompareResult : Prop :=
  ∀ (s : State) (crfD : FieldNum) (l : Bool) (rA : GprNum) (i : Instr) (a b : Nat), (l = true → is64 s.cfg = true) →
    a = (if l then (readGpr s rA).toNat else (readGpr s rA).toNat % 2 ^ 32) →
    ((∃ rB, i = .cmpl crfD l rA rB ∧ b = (if l then (readGpr s rB).toNat else (readGpr s rB).toNat % 2 ^ 32)) ∨
      (∃ v : BitVec 16, i = .cmpli crfD l rA v ∧ b = v.toNat)) →
    ∃ t, exec i s = .next t ∧ t.pc = nextPc s ∧ OnlyCrField crfD s t ∧
      (field4 t.cr crfD).getLsbD 3 = decide (a < b) ∧ (field4 t.cr crfD).getLsbD 2 = decide (b < a) ∧
      (field4 t.cr crfD).getLsbD 1 = decide (a = b) ∧ (field4 t.cr crfD).getLsbD 0 = s.xer.getLsbD 31

/-! ## Branches (42_branch.md) -/

/-- R252, R255 to R258: **b** goes to its displacement, from the pc or with AA from zero; **bc** the same where BO and
BI have it taken, with the CTR as BO has it; with LK the LR takes the address of the next instruction, whether or not
the branch is taken.
The spec marks as supplied by itself, whole or in part: R252, R255, R256, R257 (log entry 10). -/
def Obligations.RelativeBranchResult : Prop :=
  (∀ (s : State) (li : BitVec 24) (aa lk : Bool), ∃ t, exec (.b li aa lk) s = .next t ∧
    t.pc = effective s ((if aa then 0 else s.pc) + (li ++ (0 : BitVec 2)).signExtend 64) ∧
    t.lr = (if lk then nextPc s else s.lr) ∧ sameMemory s t ∧ t = { s with lr := t.lr, pc := t.pc }) ∧
  (∀ (s : State) (bo bi : BitVec 5) (bd : BitVec 14) (aa lk : Bool), ∃ t, exec (.bc bo bi bd aa lk) s = .next t ∧
    t.ctr = branchCtr s bo ∧ t.lr = (if lk then nextPc s else s.lr) ∧
    t.pc = (if branchTaken s bo bi then effective s ((if aa then 0 else s.pc) + (bd ++ (0 : BitVec 2)).signExtend 64)
      else nextPc s) ∧
    sameMemory s t ∧ t = { s with ctr := t.ctr, lr := t.lr, pc := t.pc })

/-- R253, R254: the rows of the BO table.  `d`: the CTR is decremented; `n`: the decremented CTR is not zero, in
32-bit mode of a 64-bit implementation its low-order word (R254); `c`: the CR bit.
The spec marks as supplied by itself, whole or in part: R254 (log entry 10). -/
def Obligations.BranchOptionTable : Prop :=
  ∀ (s : State) (bo bi : BitVec 5) (n c : Bool),
    n = (effective s (toWidth s.cfg (s.ctr - 1)) != 0) → c = s.cr.getLsbD (31 - bi.toNat) →
    (bo.extractLsb' 1 4 = 0b0000#4 → branchCtr s bo = toWidth s.cfg (s.ctr - 1) ∧ branchTaken s bo bi = (n && !c)) ∧
    (bo.extractLsb' 1 4 = 0b0001#4 → branchCtr s bo = toWidth s.cfg (s.ctr - 1) ∧ branchTaken s bo bi = (!n && !c)) ∧
    (bo.extractLsb' 1 4 = 0b0010#4 ∨ bo.extractLsb' 1 4 = 0b0011#4 →
      branchCtr s bo = s.ctr ∧ branchTaken s bo bi = !c) ∧
    (bo.extractLsb' 1 4 = 0b0100#4 → branchCtr s bo = toWidth s.cfg (s.ctr - 1) ∧ branchTaken s bo bi = (n && c)) ∧
    (bo.extractLsb' 1 4 = 0b0101#4 → branchCtr s bo = toWidth s.cfg (s.ctr - 1) ∧ branchTaken s bo bi = (!n && c)) ∧
    (bo.extractLsb' 1 4 = 0b0110#4 ∨ bo.extractLsb' 1 4 = 0b0111#4 →
      branchCtr s bo = s.ctr ∧ branchTaken s bo bi = c) ∧
    (bo.extractLsb' 1 4 = 0b1000#4 ∨ bo.extractLsb' 1 4 = 0b1100#4 →
      branchCtr s bo = toWidth s.cfg (s.ctr - 1) ∧ branchTaken s bo bi = n) ∧
    (bo.extractLsb' 1 4 = 0b1001#4 ∨ bo.extractLsb' 1 4 = 0b1101#4 →
      branchCtr s bo = toWidth s.cfg (s.ctr - 1) ∧ branchTaken s bo bi = !n) ∧
    (bo.extractLsb' 1 4 = 0b1010#4 ∨ bo.extractLsb' 1 4 = 0b1011#4 ∨ bo.extractLsb' 1 4 = 0b1110#4 ∨
      bo.extractLsb' 1 4 = 0b1111#4 → branchCtr s bo = s.ctr ∧ branchTaken s bo bi = true)

/-- R49, R255, R259, R260: **bclr** goes to the LR before the link, **bcctr** to the CTR, each without its two
low-order bits; **bcctr** does not decrement.
The spec marks as supplied by itself, whole or in part: R255, R260 (log entry 10). -/
def Obligations.BranchToRegisterResult : Prop :=
  ∀ (s : State) (bo bi : BitVec 5) (lk : Bool),
    (∃ t, exec (.bclr bo bi lk) s = .next t ∧ t.ctr = branchCtr s bo ∧ t.lr = (if lk then nextPc s else s.lr) ∧
      t.pc = (if branchTaken s bo bi then effective s (s.lr &&& 0xFFFFFFFFFFFFFFFC) else nextPc s) ∧
      sameMemory s t ∧ t = { s with ctr := t.ctr, lr := t.lr, pc := t.pc }) ∧
    (bo.getLsbD 2 = true → ∃ t, exec (.bcctr bo bi lk) s = .next t ∧ t.lr = (if lk then nextPc s else s.lr) ∧
      t.pc = (if bo.getLsbD 4 || s.cr.getLsbD (31 - bi.toNat) == bo.getLsbD 3
        then effective s (s.ctr &&& 0xFFFFFFFFFFFFFFFC) else nextPc s) ∧
      sameMemory s t ∧ t = { s with lr := t.lr, pc := t.pc })

/-! ## System instructions (43_system_sync.md) -/

/-- R346: **sc** enters the system call exception, saving the address of the instruction that follows.  It completes
with MSR[ILE] = 0 (D8). -/
def Obligations.SystemCallResult : Prop :=
  ∀ s : State, exec .sc s = enter .systemCall (nextPc s) s ∧
    (msrILE s.msr = false → exec .sc s = .next (entered .systemCall (nextPc s) s))

/-- R272, R274, R276: **rfi** in supervisor mode, of a 32-bit implementation, and of a 64-bit one with the bridge,
where the high-order half of the MSR stays; **rfid** of a 64-bit implementation.  On a 64-bit implementation the SF
bit of the new MSR decides the width of the address.  SRR0 and SRR1 stay; every window closes.
The spec marks as supplied by itself, whole or in part: R274, R276 (log entry 10). -/
def Obligations.ReturnFromExceptionResult : Prop :=
  ∀ (s : State) (i : Instr) (m : Word), userMode s = false → unsupportedMsr s.cfg m = none →
    ((i = .rfi ∧ (is64 s.cfg = false ∨ hasBridge s.cfg = true) ∧
        m = (s.msr &&& 0xFFFFFFFF783F0000) ||| (s.srr1 &&& 0x0000000087C0FFFF)) ∨
      (i = .rfid ∧ is64 s.cfg = true ∧ m = (s.msr &&& 0x00000000783F0000) ||| (s.srr1 &&& 0xFFFFFFFF87C0FFFF))) →
    ∃ t, exec i s = .next t ∧ t.msr = m ∧
      t.pc = (if is64 s.cfg && msrSF m then s.srr0 &&& 0xFFFFFFFFFFFFFFFC else s.srr0 &&& 0x00000000FFFFFFFC) ∧
      t.windows = Windows.closed ∧ t.storedSince = [] ∧ sameMemory s t ∧
      t = { s with msr := t.msr, pc := t.pc, windows := t.windows, storedSince := t.storedSince }

/-- R278, R280, R282, R287 to R291, R412: **isync** closes every window, **sync** those of the SLB and TLB entries
only; neither changes a register or a byte of memory.  **slbie**, **slbia** (64-bit implementations), **tlbie**,
**tlbia** in supervisor mode change only the pc, and open the window of the entries.  That **sync** closes no other
window, and that the entries themselves are not held, is log entries 11 and 24.
The spec marks as supplied by itself, whole or in part: R278, R280, R287, R288, R290 (log entry 10). -/
def Obligations.SynchronizationResult : Prop :=
  (∀ s : State,
    (∃ t, exec .isync s = .next t ∧ t.pc = nextPc s ∧ sameMemory s t ∧
      t = { s with pc := t.pc, windows := Windows.closed, storedSince := [] }) ∧
    (∃ t, exec .sync s = .next t ∧ t.pc = nextPc s ∧ sameMemory s t ∧
      t = { s with pc := t.pc, windows := { s.windows with slb := false, tlb := false } })) ∧
  (∀ (s : State) (rB : GprNum), userMode s = false →
    (∀ i ∈ [Instr.slbie rB, .slbia], is64 s.cfg = true → ∃ t, exec i s = .next t ∧ t.pc = nextPc s ∧ sameMemory s t ∧
      t = { s with pc := t.pc, windows := { s.windows with slb := true } }) ∧
    (∀ i ∈ [Instr.tlbie rB, .tlbia], ∃ t, exec i s = .next t ∧ t.pc = nextPc s ∧ sameMemory s t ∧
      t = { s with pc := t.pc, windows := { s.windows with tlb := true } }))

/-- R284, R286, R105, R402: **eciwx** and **ecowx** with EAR[E] = 1 in the EAR `e` they see, an aligned address, no
breakpoint match and MSR[DR] = 0: the device that the supported RID bits name is read, or is sent the low-order word
of rS.  With the EAR's window closed `e` is the register (`WindowContext`).  The model's choices: they complete at
every physical address, because MEM_MAP takes no part, and only the supported RID bits reach the device (log entry
14); the device itself (log entry 18); the EAR seen before an **mtspr** (log entry 31).
The spec marks as supplied by itself, whole or in part: R105, R284, R402 (log entry 10). -/
def Obligations.ExternalControlResult : Prop :=
  ∀ (s : State) (r rA rB : GprNum) (rid : BitVec 6) (e : Word32), s.cfg.hasEar = true → e = contextEar s →
    e.getLsbD 31 = true → wordAligned (eaIndexed s rA rB) = true → msrDR (contextMsr s) = false →
    (∀ k, rid.getLsbD k = (e.getLsbD k && decide (k < s.cfg.ridBits.val))) →
    (dabrMatch s .load (eaIndexed s rA rB) 4 = false → ∃ t, exec (.eciwx r rA rB) s = .next t ∧
      readGpr t r = zextWord (deviceRead s rid (eaIndexed s rA rB)) ∧ t.pc = nextPc s ∧ OnlyGpr r s t) ∧
    (dabrMatch s .store (eaIndexed s rA rB) 4 = false → ∃ t, exec (.ecowx r rA rB) s = .next t ∧
      t.deviceOut = s.deviceOut ++ [⟨rid, eaIndexed s rA rB, (readGpr s r).setWidth 32⟩] ∧ t.pc = nextPc s ∧
      sameMemory s t ∧ t = { s with deviceOut := t.deviceOut, pc := t.pc })

/-! ## Loads, stores and addi (44_loads_stores_examples.md) -/

/-- R300, R302: **addi** adds the sign-extended immediate to rA, or to zero where the field is 0, modulo 2^W.
The spec marks as supplied by itself, whole or in part: R300, R302 (log entry 10). -/
def Obligations.AddiResult : Prop :=
  ∀ (s : State) (rD rA : GprNum) (simm : BitVec 16), ∃ t, exec (.addi rD rA simm) s = .next t ∧
    readGpr t rD = toWidth s.cfg ((if rA = 0 then 0 else readGpr s rA) + simm.signExtend 64) ∧
    t.pc = nextPc s ∧ OnlyGpr rD s t

/-- R300, R301, R304, R124: **lwz** loads four bytes, the lowest address most significant, and clears the high-order
half.  Misaligned it does so where `MISALIGNED` is `bytewise`.
The spec marks as supplied by itself, whole or in part: R124, R300, R301, R304 (log entry 10). -/
def Obligations.LwzResult : Prop :=
  ∀ (s : State) (rD rA : GprNum) (d : BitVec 16) (ea : Word),
    ea = effective s ((if rA = 0 then 0 else readGpr s rA) + d.signExtend 64) →
    (wordAligned ea = true ∨ s.cfg.misaligned = .bytewise) → dabrMatch s .load ea 4 = false →
    msrDR (contextMsr s) = false → msrLE (contextMsr s) = false → (∀ k < 4, mapped s.cfg (byteAddr s ea k) = true) →
    ∃ t, exec (.lwz rD rA d) s = .next t ∧
      (∀ k < 4, (readGpr t rD).extractLsb' (24 - 8 * k) 8 = memRead s.mem (byteAddr s ea k)) ∧
      (readGpr t rD).toNat < 2 ^ 32 ∧
      t.pc = nextPc s ∧ OnlyGpr rD s t

/-- R308: **lswx** with a count of `n` bytes.  Byte `k` lies in the low-order word of the register `k / 4` after rD,
wrapping from GPR31 to GPR0, most significant byte first; the rest of the last register and the high-order halves are
zero; no other register changes.  With `n` = 0 rD is undefined: nothing is said of it.
The spec marks as supplied by itself, whole or in part: R308 (log entry 10). -/
def Obligations.LswxResult : Prop :=
  ∀ (s : State) (rD rA rB : GprNum) (ea : Word) (n : Nat), n = (s.xer &&& 0x7F).toNat →
    ea = effective s ((if rA = 0 then 0 else readGpr s rA) + readGpr s rB) →
    rD ≠ rA → rD ≠ rB → (∀ j < (n + 3) / 4, rD + BitVec.ofNat 5 j ≠ rA ∧ rD + BitVec.ofNat 5 j ≠ rB) →
    dabrMatch s .load ea n = false → msrDR (contextMsr s) = false → msrLE (contextMsr s) = false →
    (∀ k < n, mapped s.cfg (byteAddr s ea k) = true) →
    ∃ t, exec (.lswx rD rA rB) s = .next t ∧ t.pc = nextPc s ∧ sameMemory s t ∧
      (∀ j < (n + 3) / 4, (readGpr t (rD + BitVec.ofNat 5 j)).toNat < 2 ^ 32 ∧
        ∀ b < 4, (readGpr t (rD + BitVec.ofNat 5 j)).extractLsb' (24 - 8 * b) 8 =
          (if 4 * j + b < n then memRead s.mem (byteAddr s ea (4 * j + b)) else 0)) ∧
      (∀ q, (∀ j < (n + 3) / 4, q ≠ rD + BitVec.ofNat 5 j) → (n = 0 → q ≠ rD) → readGpr t q = readGpr s q) ∧
      t = { s with gpr := t.gpr, pc := t.pc }

/-- R310: **stswx** with a count of `n` bytes stores byte `k % 4` of the low-order word of the register `k / 4` after
rS at EA + `k`; every other byte of memory, and every register, stays.  Fetches from the bytes stored then await a
context synchronization (R141, D16, log entry 20).
The spec marks as supplied by itself, whole or in part: R141, R310 (log entry 10). -/
def Obligations.StswxResult : Prop :=
  ∀ (s : State) (rS rA rB : GprNum) (ea : Word) (n : Nat), n = (s.xer &&& 0x7F).toNat →
    ea = effective s ((if rA = 0 then 0 else readGpr s rA) + readGpr s rB) → s.mem.wf = true →
    dabrMatch s .store ea n = false → msrDR (contextMsr s) = false → msrLE (contextMsr s) = false →
    (∀ k < n, mapped s.cfg (byteAddr s ea k) = true) →
    ∃ t, exec (.stswx rS rA rB) s = .next t ∧ t.pc = nextPc s ∧
      (∀ k < n, memRead t.mem (byteAddr s ea k) =
        (readGpr s (rS + BitVec.ofNat 5 (k / 4))).extractLsb' (24 - 8 * (k % 4)) 8) ∧
      (∀ a, (∀ k < n, a ≠ byteAddr s ea k) → memRead t.mem a = memRead s.mem a) ∧
      t.storedSince = (List.range n).map (byteAddr s ea) ++ s.storedSince ∧
      t = { s with mem := t.mem, storedSince := t.storedSince, pc := t.pc }

/-- R306, R127, R24, R344: the floating-point loads and stores as a class, with MSR[FP] = 1.  A double word is moved
between memory and an FPR bit for bit; a single is converted: its exponent is rebiased by 896, a denormalized one
becomes normalized with the same value, zeros, infinities and NaNs keep their class, their sign and the bits of their
fraction; every single-precision value comes back from its double-precision form, and no other value has one.  A store
of a value that has no single-precision form leaves its word in memory and the FPSCR's status bits undefined: nothing
is said of them (VXSOFT and the sticky bits among them, in spite of R38 and R42, by the model's choice).  With MSR[FP]
= 0 each takes the floating-point unavailable exception.  The formats are those of IEEE 754, PRESUMED, log entry 32.
The spec marks as supplied by itself, whole or in part: R24, R344 (log entry 10). -/
def Obligations.FloatTransferResult : Prop :=
  (∀ v : Word32, doubleToSingle (singleToDouble v) = v ∧ singleRepresentable (singleToDouble v) = true) ∧
  (∀ d : BitVec 64, singleRepresentable d = true → ∃ v, d = singleToDouble v) ∧
  (∀ (v : Word32) (d : BitVec 64) (e f x g : Nat), d = singleToDouble v →
    e = (v.extractLsb' 23 8).toNat → f = (v.extractLsb' 0 23).toNat →
    x = (d.extractLsb' 52 11).toNat → g = (d.extractLsb' 0 52).toNat →
    d.getLsbD 63 = v.getLsbD 31 ∧
    (e = 255 → x = 2047 ∧ g = f * 2 ^ 29) ∧
    (1 ≤ e → e ≤ 254 → x = e + 896 ∧ g = f * 2 ^ 29) ∧
    (e = 0 → f = 0 → x = 0 ∧ g = 0) ∧
    (e = 0 → f ≠ 0 → 874 ≤ x ∧ x ≤ 896 ∧ (2 ^ 52 + g) * 2 ^ (x - 874) = f * 2 ^ 52)) ∧
  ∀ (s : State) (fr : FprNum) (ea : Word),
    (msrFP (contextMsr s) = false → ∀ o ∈ [loadFprDouble fr ea s, loadFprSingle fr ea s, storeFprDouble fr ea s,
      storeFprSingle fr ea s], o = enter .fpUnavailable s.pc s) ∧
    (msrFP (contextMsr s) = true → msrDR (contextMsr s) = false → msrLE (contextMsr s) = false → s.mem.wf = true →
      (dabrMatch s .load ea 8 = false → (∀ k < 8, mapped s.cfg (byteAddr s ea k) = true) →
        ∃ t, loadFprDouble fr ea s = .next t ∧
          (∀ k < 8, (readFpr t fr).extractLsb' (56 - 8 * k) 8 = memRead s.mem (byteAddr s ea k)) ∧
          (∀ q, q ≠ fr → readFpr t q = readFpr s q) ∧ sameMemory s t ∧ t = { s with fpr := t.fpr, pc := nextPc s }) ∧
      (dabrMatch s .load ea 4 = false → (∀ k < 4, mapped s.cfg (byteAddr s ea k) = true) →
        ∃ t, loadFprSingle fr ea s = .next t ∧
          (∀ k < 4, (doubleToSingle (readFpr t fr)).extractLsb' (24 - 8 * k) 8 = memRead s.mem (byteAddr s ea k)) ∧
          singleRepresentable (readFpr t fr) = true ∧
          (∀ q, q ≠ fr → readFpr t q = readFpr s q) ∧ sameMemory s t ∧ t = { s with fpr := t.fpr, pc := nextPc s }) ∧
      (dabrMatch s .store ea 8 = false → (∀ k < 8, mapped s.cfg (byteAddr s ea k) = true) →
        ∃ t, storeFprDouble fr ea s = .next t ∧
          (∀ k < 8, memRead t.mem (byteAddr s ea k) = (readFpr s fr).extractLsb' (56 - 8 * k) 8) ∧
          (∀ a, (∀ k < 8, a ≠ byteAddr s ea k) → memRead t.mem a = memRead s.mem a) ∧
          t = { s with mem := t.mem, storedSince := (List.range 8).map (byteAddr s ea) ++ s.storedSince,
                       pc := nextPc s }) ∧
      (dabrMatch s .store ea 4 = false → (∀ k < 4, mapped s.cfg (byteAddr s ea k) = true) →
        (singleRepresentable (readFpr s fr) = true → ∃ t, storeFprSingle fr ea s = .next t ∧
          (∀ k < 4, memRead t.mem (byteAddr s ea k) = (doubleToSingle (readFpr s fr)).extractLsb' (24 - 8 * k) 8) ∧
          (∀ a, (∀ k < 4, a ≠ byteAddr s ea k) → memRead t.mem a = memRead s.mem a) ∧
          t = { s with mem := t.mem, storedSince := (List.range 4).map (byteAddr s ea) ++ s.storedSince,
                       pc := nextPc s }) ∧
        (singleRepresentable (readFpr s fr) = false → msrFpMode (contextMsr s) = .disabled →
          ∃ t, storeFprSingle fr ea s = .next t ∧
          (∀ a, (∀ k < 4, a ≠ byteAddr s ea k) → memRead t.mem a = memRead s.mem a) ∧
          (∀ k, k < 8 ∨ k = 11 → t.fpscr.getLsbD k = s.fpscr.getLsbD k) ∧
          t = { s with mem := t.mem, storedSince := (List.range 4).map (byteAddr s ea) ++ s.storedSince,
                       fpscr := t.fpscr, pc := nextPc s })))

/-! ## Translation registers (10_state.md, 20_memory.md) -/

/-- R74: an effective address lies in a BAT area exactly when, with its bits under the ones of BL cleared, it equals
BEPI in every bit from 17 up; BL's bit `j` lies over bit 17 + `j` of the address.  The offset within the area is the
address bits under the ones of BL with the 17 to their right. -/
def Obligations.BatAreaMatch : Prop :=
  ∀ (p : Params) (upper ea : Word),
    (batHit p upper ea = true ↔ ∀ k, 17 ≤ k → k < 64 → (k < 32 ∨ is64 p = true) →
      (ea.getLsbD k && !(decide (k < 28) && upper.getLsbD (k - 15))) = upper.getLsbD k) ∧
    ∀ k, (ea &&& batOffsetMask upper).getLsbD k =
      (ea.getLsbD k && (decide (k < 17) || (decide (k < 28) && upper.getLsbD (k - 15))))

/-- R123, R130, R131, R134, R135, R136, R70, R73, R75, R79, R81, R82, R83: the order of the translation mechanisms.
With MSR[IR] (MSR[DR]) zero an instruction (data) access goes to its effective address.  With it one, a pair of the
BAT registers of the kind translates the access if it is valid at the level and the address lies in its area
(`BatAreaMatch`), and the segment mechanism is not used; where no pair does, a 32-bit implementation takes the segment
register that EA{0..3} select, a 64-bit one the segment table at ASR[STABORG], or with the bridge, ASR[V] = 0 and
MSR[SF] = 0 its SLB entries.  It stops where a valid pair breaks Table 2-12 or R75 (U17, U18), where SDR1 is
ill-formed before a page table search (U19), and at an address that R82 forbids (U20).  The model's choices (log entry
25): it stops where more than one pair matches; the bridge with ASR[V] = 0 and MSR[SF] = 1 goes to the segment table,
marked as not valid.  No instruction comes to this, because translation stays off (log entry 21).
The spec marks as supplied by itself, whole or in part: R70, R73, R81, R123, R130, R131, R134 (log entry 10). -/
def Obligations.TranslationOrder : Prop :=
  (∀ bl : BitVec 11, batBLValid bl = true ↔
    bl ∈ [0x000#11, 0x001#11, 0x003#11, 0x007#11, 0x00F#11, 0x01F#11, 0x03F#11, 0x07F#11, 0x0FF#11, 0x1FF#11, 0x3FF#11,
      0x7FF#11]) ∧
  ∀ (s : State) (kind : AccessKind) (a ea : Word) (bats : Vector Word 8) (on : Bool), ea = effective s a →
    bats = (if kind = .instruction then s.ibat else s.dbat) →
    on = (if kind = .instruction then msrIR (contextMsr s) else msrDR (contextMsr s)) →
    (∀ n : Fin 4, batTranslates s kind ea n = true ↔
      (if userMode s then (bats[2 * n.val]).getLsbD 0 else (bats[2 * n.val]).getLsbD 1) = true ∧
        batHit s.cfg (bats[2 * n.val]) ea = true) ∧
    (∀ n : Fin 4, batUsable s kind n = true ↔
      ((bats[2 * n.val]).getLsbD 0 = true ∨ (bats[2 * n.val]).getLsbD 1 = true →
        batBLValid ((bats[2 * n.val]).extractLsb' 2 11) = true ∧
        ∀ k < 11, (bats[2 * n.val]).getLsbD (2 + k) = true →
          (bats[2 * n.val]).getLsbD (17 + k) = false ∧ (bats[2 * n.val + 1]).getLsbD (17 + k) = false)) ∧
    (on = false → translateAddress s kind a = .real ea) ∧
    (on = true → (∃ k n, batUsable s k n = false) → translateAddress s kind a = .stopped .unusableBats) ∧
    (on = true → (∀ k n, batUsable s k n = true) →
      (∀ n : Fin 4, batTranslates s kind ea n = true → (∀ m, m ≠ n → batTranslates s kind ea m = false) →
        translateAddress s kind a = .block n (toWidth s.cfg ((bats[2 * n.val + 1] &&& 0xFFFFFFFFFFFE0000) |||
          (ea &&& batOffsetMask (bats[2 * n.val]))))) ∧
      (∀ m n : Fin 4, m ≠ n → batTranslates s kind ea m = true → batTranslates s kind ea n = true →
        translateAddress s kind a = .stopped .overlappingBlocks) ∧
      ((∀ n : Fin 4, batTranslates s kind ea n = false) →
        (is64 s.cfg = false → ∀ (n : SrNum) (v : Word32), n = ea.extractLsb' 28 4 → v = s.sr[n.toNat]'n.isLt →
          (v.getLsbD 31 = false → translateAddress s kind a = if sdr1WellFormed s.cfg s.sdr1 then .paged
            (v.extractLsb' 0 24 ++ ea.extractLsb' 12 16 ++ ea.extractLsb' 0 12) (s.sdr1 &&& 0xFFFF0000)
            else .stopped .illFormedSdr1) ∧
          (v.getLsbD 31 = true → translateAddress s kind a = .directStore (v.extractLsb' 20 9) (v.extractLsb' 0 20))) ∧
        (is64 s.cfg = true →
          (hasBridge s.cfg = true → s.asr.getLsbD 0 = false → msrSF (contextMsr s) = false →
            translateAddress s kind a = if sdr1WellFormed s.cfg s.sdr1 then .slbEntries else .stopped .illFormedSdr1) ∧
          (hasBridge s.cfg = false ∨ s.asr.getLsbD 0 = true ∨ msrSF (contextMsr s) = true →
            translateAddress s kind a =
              if s.asr >>> 12 ∈ [0#64, 1#64, 2#64] then .stopped .forbiddenSegmentTable
              else if sdr1WellFormed s.cfg s.sdr1 then .segmentTable (s.asr &&& 0xFFFFFFFFFFFFF000)
                (!hasBridge s.cfg || s.asr.getLsbD 0)
              else .stopped .illFormedSdr1))))
end

