-- ==== Sys2Proof/Laws/Bits.lean ====
section
/-! SUPPORT. The bit-field helpers, bit by bit. -/

namespace Sys2Proof.Machine

open Sys2Proof.Config

theorem getLsbD_withBits {n : Nat} (v m : BitVec n) (b : Bool) (k : Nat) :
    (withBits v m b).getLsbD k = if m.getLsbD k then b else v.getLsbD k := by
  unfold withBits
  cases b <;> cases hm : m.getLsbD k <;> simp [hm]
  all_goals exact fun h => BitVec.lt_of_getLsbD h

theorem getLsbD_merge {n : Nat} (a b m : BitVec n) (k : Nat) :
    (merge a b m).getLsbD k = if m.getLsbD k then b.getLsbD k else a.getLsbD k := by
  unfold merge
  cases hm : m.getLsbD k <;> simp [hm]
  all_goals exact fun h => BitVec.lt_of_getLsbD h

/-- A read of reserved bits (R20): a bit that holds zero reads as zero, an unreserved one as it is stored. -/
theorem getLsbD_readReserved (v r f : Word) (k : Nat) :
    (readReserved v r f).getLsbD k = (v.getLsbD k && (!r.getLsbD k || f.getLsbD k)) := by
  unfold readReserved
  split
  · rename_i h
    have := congrArg (fun w : Word => w.getLsbD k) h
    simp only [BitVec.getLsbD_and, BitVec.ofNat_eq_ofNat, BitVec.getLsbD_zero] at this
    cases h1 : v.getLsbD k <;> cases h2 : r.getLsbD k <;> simp_all
  · rw [getLsbD_merge]
    cases h1 : v.getLsbD k <;> cases h2 : r.getLsbD k <;> simp_all

theorem getLsbD_zextWord (v : Word32) (k : Nat) : (zextWord v).getLsbD k = v.getLsbD k := by
  by_cases h : k < 64
  · simp [zextWord, h]
  · simp [zextWord, BitVec.getLsbD_of_ge v k (by omega)]

theorem getLsbD_lowWord (v : Word) (k : Nat) : (lowWord v).getLsbD k = (decide (k < 32) && v.getLsbD k) := by
  simp [lowWord]

theorem getLsbD_low32 (v : Word) (k : Nat) : (low32 v).getLsbD k = (decide (k < 32) && v.getLsbD k) := by
  have h : (0x00000000FFFFFFFF : Word) = (BitVec.allOnes 32).setWidth 64 := by decide
  rw [low32, h, BitVec.getLsbD_and, BitVec.getLsbD_setWidth, BitVec.getLsbD_allOnes, Bool.and_comm]
  by_cases h : k < 32
  · simp [h, show k < 64 by omega]
  · simp [h]

theorem getLsbD_toWidth (p : Params) (v : Word) (k : Nat) :
    (toWidth p v).getLsbD k = ((is64 p || decide (k < 32)) && v.getLsbD k) := by
  unfold toWidth
  cases h : is64 p <;> simp [getLsbD_low32]

theorem low32_toNat (v : Word) : (low32 v).toNat = v.toNat % 2 ^ 32 := by
  simp only [low32, BitVec.toNat_and]
  exact Nat.and_two_pow_sub_one_eq_mod _ 32

theorem toWidth_zextWord (p : Params) (v : Word32) : toWidth p (zextWord v) = zextWord v := by
  apply BitVec.eq_of_getLsbD_eq
  intro k hk
  rw [getLsbD_toWidth, getLsbD_zextWord]
  by_cases h : k < 32
  · simp [h]
  · simp [BitVec.getLsbD_of_ge v k (by omega)]

theorem zextWord_lt (v : Word32) : (zextWord v).toNat < 2 ^ 32 := by
  have := v.isLt
  simp only [zextWord, BitVec.toNat_setWidth]
  omega

/-- The bytes of a word put together from bytes. -/
theorem wordOfBytes_byte (b : Fin 4 → Byte) (k : Fin 4) :
    (zextWord (Decode.wordOfBytes (b 0) (b 1) (b 2) (b 3))).extractLsb' (24 - 8 * k.val) 8 = b k := by
  apply BitVec.eq_of_getLsbD_eq
  intro i hi
  fin_cases k <;> interval_cases i <;> simp [zextWord, Decode.wordOfBytes]

/-- A word put together from its own bytes. -/
theorem wordOfBytes_byteOfWord (w : Word32) :
    Decode.wordOfBytes (Decode.byteOfWord w 0) (Decode.byteOfWord w 1) (Decode.byteOfWord w 2) (Decode.byteOfWord w 3)
      = w := by
  apply BitVec.eq_of_getLsbD_eq
  intro i hi
  interval_cases i <;> simp [Decode.wordOfBytes, Decode.byteOfWord]

/-! ## Fields of eight 4-bit fields -/

theorem getLsbD_field4Mask (f : FieldNum) (k : Nat) :
    (field4Mask f).getLsbD k = (decide (k < 32) && decide (k / 4 = 7 - f.toNat)) := by
  by_cases h : k < 32
  · simp only [h, decide_true, Bool.true_and]
    revert f
    interval_cases k <;> decide
  · simp [BitVec.getLsbD_of_ge _ k (Nat.le_of_not_lt h), h]

theorem getLsbD_atField4 (f : FieldNum) (v : BitVec 4) (k : Nat) (h : k / 4 = 7 - f.toNat) (hk : k < 32) :
    (atField4 f v).getLsbD k = v.getLsbD (k % 4) := by
  have hf := f.isLt
  have h1 : ¬k < 28 - 4 * f.toNat := by omega
  have h2 : k - (28 - 4 * f.toNat) = k % 4 := by omega
  simp [atField4, hk, h1, h2]

theorem getLsbD_field4 (v : Word32) (f : FieldNum) (j : Nat) :
    (field4 v f).getLsbD j = (decide (j < 4) && v.getLsbD (28 - 4 * f.toNat + j)) := by
  simp [field4]

/-- The field written reads back. -/
theorem field4_setField4_same (v : Word32) (f : FieldNum) (x : BitVec 4) : field4 (setField4 v f x) f = x := by
  apply BitVec.eq_of_getLsbD_eq
  intro j hj
  have hf := f.isLt
  have h1 : (28 - 4 * f.toNat + j) / 4 = 7 - f.toNat := by omega
  have h2 : 28 - 4 * f.toNat + j < 32 := by omega
  have h3 : (28 - 4 * f.toNat + j) % 4 = j := by omega
  rw [getLsbD_field4, setField4, getLsbD_merge, getLsbD_field4Mask, getLsbD_atField4 _ _ _ h1 h2]
  simp [hj, h1, h2, h3]

/-- The other fields stay. -/
theorem field4_setField4_other (v : Word32) {f g : FieldNum} (x : BitVec 4) (h : g ≠ f) :
    field4 (setField4 v f x) g = field4 v g := by
  apply BitVec.eq_of_getLsbD_eq
  intro j hj
  have hf := f.isLt
  have hg := g.isLt
  have hn : g.toNat ≠ f.toNat := fun e => h (BitVec.eq_of_toNat_eq e)
  have h1 : (28 - 4 * g.toNat + j) / 4 ≠ 7 - f.toNat := by omega
  rw [getLsbD_field4, getLsbD_field4, setField4, getLsbD_merge, getLsbD_field4Mask]
  simp [h1]

/-- The mask of selected fields: the mask's bit for field 0 is its most significant. -/
theorem getLsbD_fieldsMask (m : BitVec 8) (k : Nat) :
    (fieldsMask m).getLsbD k = (decide (k < 32) && m.getLsbD (k / 4)) := by
  by_cases h : k < 32
  · simp only [h, decide_true, Bool.true_and]
    revert m
    interval_cases k <;> decide
  · simp [BitVec.getLsbD_of_ge _ k (Nat.le_of_not_lt h), h]

theorem getLsbD_srcBit (i : BitVec 5) (k : Nat) : (srcBit i).getLsbD k = decide (k = 31 - i.toNat) := by
  by_cases h : k < 32
  · revert i
    interval_cases k <;> decide
  · have := i.isLt
    rw [BitVec.getLsbD_of_ge _ k (Nat.le_of_not_lt h)]
    simp; omega

end Sys2Proof.Machine
end

