-- ==== Sys2Proof/Laws/Encoding.lean ====
section
/-! SUPPORT. Fields of a word: how `put`, `field` and masks meet. -/

namespace Sys2Proof.Decode

theorem getLsbD_put {n : Nat} (lo i : Nat) (v : BitVec n) :
    (put lo v).getLsbD i = (decide (i < 32) && decide (lo ≤ i) && v.getLsbD (i - lo)) := by
  by_cases hi : i < 32 <;> by_cases hl : lo ≤ i <;> simp [put, hi, hl]

theorem or_and_mask (a b m : Word32) : (a ||| b) &&& m = a &&& m ||| b &&& m := by
  apply BitVec.eq_of_getLsbD_eq
  intro i hi
  simp [Bool.and_or_distrib_right]

/-- A field has no bit under a mask that misses the field's place. -/
theorem put_and {n : Nat} (lo : Nat) (v : BitVec n) {m : Word32} (h : put lo (BitVec.allOnes n) &&& m = 0) :
    put lo v &&& m = 0 := by
  apply BitVec.eq_of_getLsbD_eq
  intro i hi
  have := congrArg (fun w : Word32 => w.getLsbD i) h
  simp only [BitVec.getLsbD_and, getLsbD_put, BitVec.getLsbD_allOnes] at this ⊢
  by_cases hv : v.getLsbD (i - lo) = true
  · have hn : i - lo < n := BitVec.lt_of_getLsbD hv
    simpa [hv, hn] using this
  · simp [hv]

theorem field_or (lo len : Nat) (a b : Word32) : field lo len (a ||| b) = field lo len a ||| field lo len b := by
  apply BitVec.eq_of_getLsbD_eq
  intro i hi
  simp [field, Bool.and_or_distrib_left]

/-- A field is read back from its place. -/
theorem field_put_same {n : Nat} (lo : Nat) (v : BitVec n) (h : lo + n ≤ 32) : field lo n (put lo v) = v := by
  apply BitVec.eq_of_getLsbD_eq
  intro i hi
  simp [field, getLsbD_put, hi]
  omega

/-- Another field's place reads as zero. -/
theorem field_put_other {n : Nat} (lo len lo' : Nat) (v : BitVec n) (h : lo + len ≤ lo' ∨ lo' + n ≤ lo) :
    field lo len (put lo' v) = 0 := by
  apply BitVec.eq_of_getLsbD_eq
  intro i hi
  simp only [field, BitVec.getLsbD_extractLsb', getLsbD_put]
  rcases h with h | h
  · simp; omega
  · have : v.getLsbD (lo + i - lo') = false := BitVec.getLsbD_of_ge _ _ (by omega)
    simp [this]

end Sys2Proof.Decode
end

