-- ==== Sys2Proof/Laws/State.lean ====
section
/-! SUPPORT. One lemma per field per named update of the state, so that no later proof unfolds a record update. -/

namespace Sys2Proof.Machine

open Sys2Proof.Config

/-! ## writeGpr -/

section
variable (s : State) (r : GprNum) (v : Word)

@[simp] theorem writeGpr_cfg : (writeGpr s r v).cfg = s.cfg := rfl
@[simp] theorem writeGpr_gpr : (writeGpr s r v).gpr = s.gpr.set r.toNat (toWidth s.cfg v) r.isLt := rfl
@[simp] theorem writeGpr_fpr : (writeGpr s r v).fpr = s.fpr := rfl
@[simp] theorem writeGpr_cr : (writeGpr s r v).cr = s.cr := rfl
@[simp] theorem writeGpr_fpscr : (writeGpr s r v).fpscr = s.fpscr := rfl
@[simp] theorem writeGpr_xer : (writeGpr s r v).xer = s.xer := rfl
@[simp] theorem writeGpr_lr : (writeGpr s r v).lr = s.lr := rfl
@[simp] theorem writeGpr_ctr : (writeGpr s r v).ctr = s.ctr := rfl
@[simp] theorem writeGpr_pc : (writeGpr s r v).pc = s.pc := rfl
@[simp] theorem writeGpr_msr : (writeGpr s r v).msr = s.msr := rfl
@[simp] theorem writeGpr_tb : (writeGpr s r v).tb = s.tb := rfl
@[simp] theorem writeGpr_dec : (writeGpr s r v).dec = s.dec := rfl
@[simp] theorem writeGpr_decPending : (writeGpr s r v).decPending = s.decPending := rfl
@[simp] theorem writeGpr_ibat : (writeGpr s r v).ibat = s.ibat := rfl
@[simp] theorem writeGpr_dbat : (writeGpr s r v).dbat = s.dbat := rfl
@[simp] theorem writeGpr_sdr1 : (writeGpr s r v).sdr1 = s.sdr1 := rfl
@[simp] theorem writeGpr_asr : (writeGpr s r v).asr = s.asr := rfl
@[simp] theorem writeGpr_sr : (writeGpr s r v).sr = s.sr := rfl
@[simp] theorem writeGpr_dar : (writeGpr s r v).dar = s.dar := rfl
@[simp] theorem writeGpr_dsisr : (writeGpr s r v).dsisr = s.dsisr := rfl
@[simp] theorem writeGpr_sprg : (writeGpr s r v).sprg = s.sprg := rfl
@[simp] theorem writeGpr_srr0 : (writeGpr s r v).srr0 = s.srr0 := rfl
@[simp] theorem writeGpr_srr1 : (writeGpr s r v).srr1 = s.srr1 := rfl
@[simp] theorem writeGpr_dabr : (writeGpr s r v).dabr = s.dabr := rfl
@[simp] theorem writeGpr_ear : (writeGpr s r v).ear = s.ear := rfl
@[simp] theorem writeGpr_fpecr : (writeGpr s r v).fpecr = s.fpecr := rfl
@[simp] theorem writeGpr_pir : (writeGpr s r v).pir = s.pir := rfl
@[simp] theorem writeGpr_mem : (writeGpr s r v).mem = s.mem := rfl
@[simp] theorem writeGpr_windows : (writeGpr s r v).windows = s.windows := rfl
@[simp] theorem writeGpr_storedSince : (writeGpr s r v).storedSince = s.storedSince := rfl
@[simp] theorem writeGpr_inputs : (writeGpr s r v).inputs = s.inputs := rfl
@[simp] theorem writeGpr_deviceIn : (writeGpr s r v).deviceIn = s.deviceIn := rfl
@[simp] theorem writeGpr_deviceOut : (writeGpr s r v).deviceOut = s.deviceOut := rfl
@[simp] theorem writeGpr_excCount : (writeGpr s r v).excCount = s.excCount := rfl
@[simp] theorem writeGpr_freeCtr : (writeGpr s r v).freeCtr = s.freeCtr := rfl

end

/-! ## writeFpr -/

section
variable (s : State) (r : FprNum) (v : BitVec 64)

@[simp] theorem writeFpr_cfg : (writeFpr s r v).cfg = s.cfg := rfl
@[simp] theorem writeFpr_gpr : (writeFpr s r v).gpr = s.gpr := rfl
@[simp] theorem writeFpr_fpr : (writeFpr s r v).fpr = s.fpr.set r.toNat v r.isLt := rfl
@[simp] theorem writeFpr_cr : (writeFpr s r v).cr = s.cr := rfl
@[simp] theorem writeFpr_fpscr : (writeFpr s r v).fpscr = s.fpscr := rfl
@[simp] theorem writeFpr_xer : (writeFpr s r v).xer = s.xer := rfl
@[simp] theorem writeFpr_lr : (writeFpr s r v).lr = s.lr := rfl
@[simp] theorem writeFpr_ctr : (writeFpr s r v).ctr = s.ctr := rfl
@[simp] theorem writeFpr_pc : (writeFpr s r v).pc = s.pc := rfl
@[simp] theorem writeFpr_msr : (writeFpr s r v).msr = s.msr := rfl
@[simp] theorem writeFpr_tb : (writeFpr s r v).tb = s.tb := rfl
@[simp] theorem writeFpr_dec : (writeFpr s r v).dec = s.dec := rfl
@[simp] theorem writeFpr_decPending : (writeFpr s r v).decPending = s.decPending := rfl
@[simp] theorem writeFpr_ibat : (writeFpr s r v).ibat = s.ibat := rfl
@[simp] theorem writeFpr_dbat : (writeFpr s r v).dbat = s.dbat := rfl
@[simp] theorem writeFpr_sdr1 : (writeFpr s r v).sdr1 = s.sdr1 := rfl
@[simp] theorem writeFpr_asr : (writeFpr s r v).asr = s.asr := rfl
@[simp] theorem writeFpr_sr : (writeFpr s r v).sr = s.sr := rfl
@[simp] theorem writeFpr_dar : (writeFpr s r v).dar = s.dar := rfl
@[simp] theorem writeFpr_dsisr : (writeFpr s r v).dsisr = s.dsisr := rfl
@[simp] theorem writeFpr_sprg : (writeFpr s r v).sprg = s.sprg := rfl
@[simp] theorem writeFpr_srr0 : (writeFpr s r v).srr0 = s.srr0 := rfl
@[simp] theorem writeFpr_srr1 : (writeFpr s r v).srr1 = s.srr1 := rfl
@[simp] theorem writeFpr_dabr : (writeFpr s r v).dabr = s.dabr := rfl
@[simp] theorem writeFpr_ear : (writeFpr s r v).ear = s.ear := rfl
@[simp] theorem writeFpr_fpecr : (writeFpr s r v).fpecr = s.fpecr := rfl
@[simp] theorem writeFpr_pir : (writeFpr s r v).pir = s.pir := rfl
@[simp] theorem writeFpr_mem : (writeFpr s r v).mem = s.mem := rfl
@[simp] theorem writeFpr_windows : (writeFpr s r v).windows = s.windows := rfl
@[simp] theorem writeFpr_storedSince : (writeFpr s r v).storedSince = s.storedSince := rfl
@[simp] theorem writeFpr_inputs : (writeFpr s r v).inputs = s.inputs := rfl
@[simp] theorem writeFpr_deviceIn : (writeFpr s r v).deviceIn = s.deviceIn := rfl
@[simp] theorem writeFpr_deviceOut : (writeFpr s r v).deviceOut = s.deviceOut := rfl
@[simp] theorem writeFpr_excCount : (writeFpr s r v).excCount = s.excCount := rfl
@[simp] theorem writeFpr_freeCtr : (writeFpr s r v).freeCtr = s.freeCtr := rfl

end

/-! ## writeCr -/

section
variable (s : State) (v : Word32)

@[simp] theorem writeCr_cfg : (writeCr s v).cfg = s.cfg := rfl
@[simp] theorem writeCr_gpr : (writeCr s v).gpr = s.gpr := rfl
@[simp] theorem writeCr_fpr : (writeCr s v).fpr = s.fpr := rfl
@[simp] theorem writeCr_cr : (writeCr s v).cr = v := rfl
@[simp] theorem writeCr_fpscr : (writeCr s v).fpscr = s.fpscr := rfl
@[simp] theorem writeCr_xer : (writeCr s v).xer = s.xer := rfl
@[simp] theorem writeCr_lr : (writeCr s v).lr = s.lr := rfl
@[simp] theorem writeCr_ctr : (writeCr s v).ctr = s.ctr := rfl
@[simp] theorem writeCr_pc : (writeCr s v).pc = s.pc := rfl
@[simp] theorem writeCr_msr : (writeCr s v).msr = s.msr := rfl
@[simp] theorem writeCr_tb : (writeCr s v).tb = s.tb := rfl
@[simp] theorem writeCr_dec : (writeCr s v).dec = s.dec := rfl
@[simp] theorem writeCr_decPending : (writeCr s v).decPending = s.decPending := rfl
@[simp] theorem writeCr_ibat : (writeCr s v).ibat = s.ibat := rfl
@[simp] theorem writeCr_dbat : (writeCr s v).dbat = s.dbat := rfl
@[simp] theorem writeCr_sdr1 : (writeCr s v).sdr1 = s.sdr1 := rfl
@[simp] theorem writeCr_asr : (writeCr s v).asr = s.asr := rfl
@[simp] theorem writeCr_sr : (writeCr s v).sr = s.sr := rfl
@[simp] theorem writeCr_dar : (writeCr s v).dar = s.dar := rfl
@[simp] theorem writeCr_dsisr : (writeCr s v).dsisr = s.dsisr := rfl
@[simp] theorem writeCr_sprg : (writeCr s v).sprg = s.sprg := rfl
@[simp] theorem writeCr_srr0 : (writeCr s v).srr0 = s.srr0 := rfl
@[simp] theorem writeCr_srr1 : (writeCr s v).srr1 = s.srr1 := rfl
@[simp] theorem writeCr_dabr : (writeCr s v).dabr = s.dabr := rfl
@[simp] theorem writeCr_ear : (writeCr s v).ear = s.ear := rfl
@[simp] theorem writeCr_fpecr : (writeCr s v).fpecr = s.fpecr := rfl
@[simp] theorem writeCr_pir : (writeCr s v).pir = s.pir := rfl
@[simp] theorem writeCr_mem : (writeCr s v).mem = s.mem := rfl
@[simp] theorem writeCr_windows : (writeCr s v).windows = s.windows := rfl
@[simp] theorem writeCr_storedSince : (writeCr s v).storedSince = s.storedSince := rfl
@[simp] theorem writeCr_inputs : (writeCr s v).inputs = s.inputs := rfl
@[simp] theorem writeCr_deviceIn : (writeCr s v).deviceIn = s.deviceIn := rfl
@[simp] theorem writeCr_deviceOut : (writeCr s v).deviceOut = s.deviceOut := rfl
@[simp] theorem writeCr_excCount : (writeCr s v).excCount = s.excCount := rfl
@[simp] theorem writeCr_freeCtr : (writeCr s v).freeCtr = s.freeCtr := rfl

end

/-! ## writeCrField -/

section
variable (s : State) (f : FieldNum) (v : BitVec 4)

@[simp] theorem writeCrField_cfg : (writeCrField s f v).cfg = s.cfg := rfl
@[simp] theorem writeCrField_gpr : (writeCrField s f v).gpr = s.gpr := rfl
@[simp] theorem writeCrField_fpr : (writeCrField s f v).fpr = s.fpr := rfl
@[simp] theorem writeCrField_cr : (writeCrField s f v).cr = setField4 s.cr f v := rfl
@[simp] theorem writeCrField_fpscr : (writeCrField s f v).fpscr = s.fpscr := rfl
@[simp] theorem writeCrField_xer : (writeCrField s f v).xer = s.xer := rfl
@[simp] theorem writeCrField_lr : (writeCrField s f v).lr = s.lr := rfl
@[simp] theorem writeCrField_ctr : (writeCrField s f v).ctr = s.ctr := rfl
@[simp] theorem writeCrField_pc : (writeCrField s f v).pc = s.pc := rfl
@[simp] theorem writeCrField_msr : (writeCrField s f v).msr = s.msr := rfl
@[simp] theorem writeCrField_tb : (writeCrField s f v).tb = s.tb := rfl
@[simp] theorem writeCrField_dec : (writeCrField s f v).dec = s.dec := rfl
@[simp] theorem writeCrField_decPending : (writeCrField s f v).decPending = s.decPending := rfl
@[simp] theorem writeCrField_ibat : (writeCrField s f v).ibat = s.ibat := rfl
@[simp] theorem writeCrField_dbat : (writeCrField s f v).dbat = s.dbat := rfl
@[simp] theorem writeCrField_sdr1 : (writeCrField s f v).sdr1 = s.sdr1 := rfl
@[simp] theorem writeCrField_asr : (writeCrField s f v).asr = s.asr := rfl
@[simp] theorem writeCrField_sr : (writeCrField s f v).sr = s.sr := rfl
@[simp] theorem writeCrField_dar : (writeCrField s f v).dar = s.dar := rfl
@[simp] theorem writeCrField_dsisr : (writeCrField s f v).dsisr = s.dsisr := rfl
@[simp] theorem writeCrField_sprg : (writeCrField s f v).sprg = s.sprg := rfl
@[simp] theorem writeCrField_srr0 : (writeCrField s f v).srr0 = s.srr0 := rfl
@[simp] theorem writeCrField_srr1 : (writeCrField s f v).srr1 = s.srr1 := rfl
@[simp] theorem writeCrField_dabr : (writeCrField s f v).dabr = s.dabr := rfl
@[simp] theorem writeCrField_ear : (writeCrField s f v).ear = s.ear := rfl
@[simp] theorem writeCrField_fpecr : (writeCrField s f v).fpecr = s.fpecr := rfl
@[simp] theorem writeCrField_pir : (writeCrField s f v).pir = s.pir := rfl
@[simp] theorem writeCrField_mem : (writeCrField s f v).mem = s.mem := rfl
@[simp] theorem writeCrField_windows : (writeCrField s f v).windows = s.windows := rfl
@[simp] theorem writeCrField_storedSince : (writeCrField s f v).storedSince = s.storedSince := rfl
@[simp] theorem writeCrField_inputs : (writeCrField s f v).inputs = s.inputs := rfl
@[simp] theorem writeCrField_deviceIn : (writeCrField s f v).deviceIn = s.deviceIn := rfl
@[simp] theorem writeCrField_deviceOut : (writeCrField s f v).deviceOut = s.deviceOut := rfl
@[simp] theorem writeCrField_excCount : (writeCrField s f v).excCount = s.excCount := rfl
@[simp] theorem writeCrField_freeCtr : (writeCrField s f v).freeCtr = s.freeCtr := rfl

end

/-! ## writeXer -/

section
variable (s : State) (v : Word32)

@[simp] theorem writeXer_cfg : (writeXer s v).cfg = s.cfg := rfl
@[simp] theorem writeXer_gpr : (writeXer s v).gpr = s.gpr := rfl
@[simp] theorem writeXer_fpr : (writeXer s v).fpr = s.fpr := rfl
@[simp] theorem writeXer_cr : (writeXer s v).cr = s.cr := rfl
@[simp] theorem writeXer_fpscr : (writeXer s v).fpscr = s.fpscr := rfl
@[simp] theorem writeXer_xer : (writeXer s v).xer = v := rfl
@[simp] theorem writeXer_lr : (writeXer s v).lr = s.lr := rfl
@[simp] theorem writeXer_ctr : (writeXer s v).ctr = s.ctr := rfl
@[simp] theorem writeXer_pc : (writeXer s v).pc = s.pc := rfl
@[simp] theorem writeXer_msr : (writeXer s v).msr = s.msr := rfl
@[simp] theorem writeXer_tb : (writeXer s v).tb = s.tb := rfl
@[simp] theorem writeXer_dec : (writeXer s v).dec = s.dec := rfl
@[simp] theorem writeXer_decPending : (writeXer s v).decPending = s.decPending := rfl
@[simp] theorem writeXer_ibat : (writeXer s v).ibat = s.ibat := rfl
@[simp] theorem writeXer_dbat : (writeXer s v).dbat = s.dbat := rfl
@[simp] theorem writeXer_sdr1 : (writeXer s v).sdr1 = s.sdr1 := rfl
@[simp] theorem writeXer_asr : (writeXer s v).asr = s.asr := rfl
@[simp] theorem writeXer_sr : (writeXer s v).sr = s.sr := rfl
@[simp] theorem writeXer_dar : (writeXer s v).dar = s.dar := rfl
@[simp] theorem writeXer_dsisr : (writeXer s v).dsisr = s.dsisr := rfl
@[simp] theorem writeXer_sprg : (writeXer s v).sprg = s.sprg := rfl
@[simp] theorem writeXer_srr0 : (writeXer s v).srr0 = s.srr0 := rfl
@[simp] theorem writeXer_srr1 : (writeXer s v).srr1 = s.srr1 := rfl
@[simp] theorem writeXer_dabr : (writeXer s v).dabr = s.dabr := rfl
@[simp] theorem writeXer_ear : (writeXer s v).ear = s.ear := rfl
@[simp] theorem writeXer_fpecr : (writeXer s v).fpecr = s.fpecr := rfl
@[simp] theorem writeXer_pir : (writeXer s v).pir = s.pir := rfl
@[simp] theorem writeXer_mem : (writeXer s v).mem = s.mem := rfl
@[simp] theorem writeXer_windows : (writeXer s v).windows = s.windows := rfl
@[simp] theorem writeXer_storedSince : (writeXer s v).storedSince = s.storedSince := rfl
@[simp] theorem writeXer_inputs : (writeXer s v).inputs = s.inputs := rfl
@[simp] theorem writeXer_deviceIn : (writeXer s v).deviceIn = s.deviceIn := rfl
@[simp] theorem writeXer_deviceOut : (writeXer s v).deviceOut = s.deviceOut := rfl
@[simp] theorem writeXer_excCount : (writeXer s v).excCount = s.excCount := rfl
@[simp] theorem writeXer_freeCtr : (writeXer s v).freeCtr = s.freeCtr := rfl

end

/-! ## setFpscr -/

section
variable (s : State) (v : Word32)

@[simp] theorem setFpscr_cfg : (setFpscr s v).cfg = s.cfg := rfl
@[simp] theorem setFpscr_gpr : (setFpscr s v).gpr = s.gpr := rfl
@[simp] theorem setFpscr_fpr : (setFpscr s v).fpr = s.fpr := rfl
@[simp] theorem setFpscr_cr : (setFpscr s v).cr = s.cr := rfl
@[simp] theorem setFpscr_fpscr : (setFpscr s v).fpscr = v &&& ~~~fpscrComputedBits := rfl
@[simp] theorem setFpscr_xer : (setFpscr s v).xer = s.xer := rfl
@[simp] theorem setFpscr_lr : (setFpscr s v).lr = s.lr := rfl
@[simp] theorem setFpscr_ctr : (setFpscr s v).ctr = s.ctr := rfl
@[simp] theorem setFpscr_pc : (setFpscr s v).pc = s.pc := rfl
@[simp] theorem setFpscr_msr : (setFpscr s v).msr = s.msr := rfl
@[simp] theorem setFpscr_tb : (setFpscr s v).tb = s.tb := rfl
@[simp] theorem setFpscr_dec : (setFpscr s v).dec = s.dec := rfl
@[simp] theorem setFpscr_decPending : (setFpscr s v).decPending = s.decPending := rfl
@[simp] theorem setFpscr_ibat : (setFpscr s v).ibat = s.ibat := rfl
@[simp] theorem setFpscr_dbat : (setFpscr s v).dbat = s.dbat := rfl
@[simp] theorem setFpscr_sdr1 : (setFpscr s v).sdr1 = s.sdr1 := rfl
@[simp] theorem setFpscr_asr : (setFpscr s v).asr = s.asr := rfl
@[simp] theorem setFpscr_sr : (setFpscr s v).sr = s.sr := rfl
@[simp] theorem setFpscr_dar : (setFpscr s v).dar = s.dar := rfl
@[simp] theorem setFpscr_dsisr : (setFpscr s v).dsisr = s.dsisr := rfl
@[simp] theorem setFpscr_sprg : (setFpscr s v).sprg = s.sprg := rfl
@[simp] theorem setFpscr_srr0 : (setFpscr s v).srr0 = s.srr0 := rfl
@[simp] theorem setFpscr_srr1 : (setFpscr s v).srr1 = s.srr1 := rfl
@[simp] theorem setFpscr_dabr : (setFpscr s v).dabr = s.dabr := rfl
@[simp] theorem setFpscr_ear : (setFpscr s v).ear = s.ear := rfl
@[simp] theorem setFpscr_fpecr : (setFpscr s v).fpecr = s.fpecr := rfl
@[simp] theorem setFpscr_pir : (setFpscr s v).pir = s.pir := rfl
@[simp] theorem setFpscr_mem : (setFpscr s v).mem = s.mem := rfl
@[simp] theorem setFpscr_windows : (setFpscr s v).windows = s.windows := rfl
@[simp] theorem setFpscr_storedSince : (setFpscr s v).storedSince = s.storedSince := rfl
@[simp] theorem setFpscr_inputs : (setFpscr s v).inputs = s.inputs := rfl
@[simp] theorem setFpscr_deviceIn : (setFpscr s v).deviceIn = s.deviceIn := rfl
@[simp] theorem setFpscr_deviceOut : (setFpscr s v).deviceOut = s.deviceOut := rfl
@[simp] theorem setFpscr_excCount : (setFpscr s v).excCount = s.excCount := rfl
@[simp] theorem setFpscr_freeCtr : (setFpscr s v).freeCtr = s.freeCtr := rfl

end

/-! ## advance -/

section
variable (s : State)

@[simp] theorem advance_cfg : (advance s).cfg = s.cfg := rfl
@[simp] theorem advance_gpr : (advance s).gpr = s.gpr := rfl
@[simp] theorem advance_fpr : (advance s).fpr = s.fpr := rfl
@[simp] theorem advance_cr : (advance s).cr = s.cr := rfl
@[simp] theorem advance_fpscr : (advance s).fpscr = s.fpscr := rfl
@[simp] theorem advance_xer : (advance s).xer = s.xer := rfl
@[simp] theorem advance_lr : (advance s).lr = s.lr := rfl
@[simp] theorem advance_ctr : (advance s).ctr = s.ctr := rfl
@[simp] theorem advance_pc : (advance s).pc = nextPc s := rfl
@[simp] theorem advance_msr : (advance s).msr = s.msr := rfl
@[simp] theorem advance_tb : (advance s).tb = s.tb := rfl
@[simp] theorem advance_dec : (advance s).dec = s.dec := rfl
@[simp] theorem advance_decPending : (advance s).decPending = s.decPending := rfl
@[simp] theorem advance_ibat : (advance s).ibat = s.ibat := rfl
@[simp] theorem advance_dbat : (advance s).dbat = s.dbat := rfl
@[simp] theorem advance_sdr1 : (advance s).sdr1 = s.sdr1 := rfl
@[simp] theorem advance_asr : (advance s).asr = s.asr := rfl
@[simp] theorem advance_sr : (advance s).sr = s.sr := rfl
@[simp] theorem advance_dar : (advance s).dar = s.dar := rfl
@[simp] theorem advance_dsisr : (advance s).dsisr = s.dsisr := rfl
@[simp] theorem advance_sprg : (advance s).sprg = s.sprg := rfl
@[simp] theorem advance_srr0 : (advance s).srr0 = s.srr0 := rfl
@[simp] theorem advance_srr1 : (advance s).srr1 = s.srr1 := rfl
@[simp] theorem advance_dabr : (advance s).dabr = s.dabr := rfl
@[simp] theorem advance_ear : (advance s).ear = s.ear := rfl
@[simp] theorem advance_fpecr : (advance s).fpecr = s.fpecr := rfl
@[simp] theorem advance_pir : (advance s).pir = s.pir := rfl
@[simp] theorem advance_mem : (advance s).mem = s.mem := rfl
@[simp] theorem advance_windows : (advance s).windows = s.windows := rfl
@[simp] theorem advance_storedSince : (advance s).storedSince = s.storedSince := rfl
@[simp] theorem advance_inputs : (advance s).inputs = s.inputs := rfl
@[simp] theorem advance_deviceIn : (advance s).deviceIn = s.deviceIn := rfl
@[simp] theorem advance_deviceOut : (advance s).deviceOut = s.deviceOut := rfl
@[simp] theorem advance_excCount : (advance s).excCount = s.excCount := rfl
@[simp] theorem advance_freeCtr : (advance s).freeCtr = s.freeCtr := rfl

end

/-! ## contextSync -/

section
variable (s : State)

@[simp] theorem contextSync_cfg : (contextSync s).cfg = s.cfg := rfl
@[simp] theorem contextSync_gpr : (contextSync s).gpr = s.gpr := rfl
@[simp] theorem contextSync_fpr : (contextSync s).fpr = s.fpr := rfl
@[simp] theorem contextSync_cr : (contextSync s).cr = s.cr := rfl
@[simp] theorem contextSync_fpscr : (contextSync s).fpscr = s.fpscr := rfl
@[simp] theorem contextSync_xer : (contextSync s).xer = s.xer := rfl
@[simp] theorem contextSync_lr : (contextSync s).lr = s.lr := rfl
@[simp] theorem contextSync_ctr : (contextSync s).ctr = s.ctr := rfl
@[simp] theorem contextSync_pc : (contextSync s).pc = s.pc := rfl
@[simp] theorem contextSync_msr : (contextSync s).msr = s.msr := rfl
@[simp] theorem contextSync_tb : (contextSync s).tb = s.tb := rfl
@[simp] theorem contextSync_dec : (contextSync s).dec = s.dec := rfl
@[simp] theorem contextSync_decPending : (contextSync s).decPending = s.decPending := rfl
@[simp] theorem contextSync_ibat : (contextSync s).ibat = s.ibat := rfl
@[simp] theorem contextSync_dbat : (contextSync s).dbat = s.dbat := rfl
@[simp] theorem contextSync_sdr1 : (contextSync s).sdr1 = s.sdr1 := rfl
@[simp] theorem contextSync_asr : (contextSync s).asr = s.asr := rfl
@[simp] theorem contextSync_sr : (contextSync s).sr = s.sr := rfl
@[simp] theorem contextSync_dar : (contextSync s).dar = s.dar := rfl
@[simp] theorem contextSync_dsisr : (contextSync s).dsisr = s.dsisr := rfl
@[simp] theorem contextSync_sprg : (contextSync s).sprg = s.sprg := rfl
@[simp] theorem contextSync_srr0 : (contextSync s).srr0 = s.srr0 := rfl
@[simp] theorem contextSync_srr1 : (contextSync s).srr1 = s.srr1 := rfl
@[simp] theorem contextSync_dabr : (contextSync s).dabr = s.dabr := rfl
@[simp] theorem contextSync_ear : (contextSync s).ear = s.ear := rfl
@[simp] theorem contextSync_fpecr : (contextSync s).fpecr = s.fpecr := rfl
@[simp] theorem contextSync_pir : (contextSync s).pir = s.pir := rfl
@[simp] theorem contextSync_mem : (contextSync s).mem = s.mem := rfl
@[simp] theorem contextSync_windows : (contextSync s).windows = Windows.closed := rfl
@[simp] theorem contextSync_storedSince : (contextSync s).storedSince = [] := rfl
@[simp] theorem contextSync_inputs : (contextSync s).inputs = s.inputs := rfl
@[simp] theorem contextSync_deviceIn : (contextSync s).deviceIn = s.deviceIn := rfl
@[simp] theorem contextSync_deviceOut : (contextSync s).deviceOut = s.deviceOut := rfl
@[simp] theorem contextSync_excCount : (contextSync s).excCount = s.excCount := rfl
@[simp] theorem contextSync_freeCtr : (contextSync s).freeCtr = s.freeCtr := rfl

end

/-! ## writeMsr -/

section
variable (s : State) (m : Word)

@[simp] theorem writeMsr_cfg : (writeMsr s m).cfg = s.cfg := rfl
@[simp] theorem writeMsr_gpr : (writeMsr s m).gpr = s.gpr := rfl
@[simp] theorem writeMsr_fpr : (writeMsr s m).fpr = s.fpr := rfl
@[simp] theorem writeMsr_cr : (writeMsr s m).cr = s.cr := rfl
@[simp] theorem writeMsr_fpscr : (writeMsr s m).fpscr = s.fpscr := rfl
@[simp] theorem writeMsr_xer : (writeMsr s m).xer = s.xer := rfl
@[simp] theorem writeMsr_lr : (writeMsr s m).lr = s.lr := rfl
@[simp] theorem writeMsr_ctr : (writeMsr s m).ctr = s.ctr := rfl
@[simp] theorem writeMsr_pc : (writeMsr s m).pc = s.pc := rfl
@[simp] theorem writeMsr_msr : (writeMsr s m).msr = m := rfl
@[simp] theorem writeMsr_tb : (writeMsr s m).tb = s.tb := rfl
@[simp] theorem writeMsr_dec : (writeMsr s m).dec = s.dec := rfl
@[simp] theorem writeMsr_decPending : (writeMsr s m).decPending = s.decPending := rfl
@[simp] theorem writeMsr_ibat : (writeMsr s m).ibat = s.ibat := rfl
@[simp] theorem writeMsr_dbat : (writeMsr s m).dbat = s.dbat := rfl
@[simp] theorem writeMsr_sdr1 : (writeMsr s m).sdr1 = s.sdr1 := rfl
@[simp] theorem writeMsr_asr : (writeMsr s m).asr = s.asr := rfl
@[simp] theorem writeMsr_sr : (writeMsr s m).sr = s.sr := rfl
@[simp] theorem writeMsr_dar : (writeMsr s m).dar = s.dar := rfl
@[simp] theorem writeMsr_dsisr : (writeMsr s m).dsisr = s.dsisr := rfl
@[simp] theorem writeMsr_sprg : (writeMsr s m).sprg = s.sprg := rfl
@[simp] theorem writeMsr_srr0 : (writeMsr s m).srr0 = s.srr0 := rfl
@[simp] theorem writeMsr_srr1 : (writeMsr s m).srr1 = s.srr1 := rfl
@[simp] theorem writeMsr_dabr : (writeMsr s m).dabr = s.dabr := rfl
@[simp] theorem writeMsr_ear : (writeMsr s m).ear = s.ear := rfl
@[simp] theorem writeMsr_fpecr : (writeMsr s m).fpecr = s.fpecr := rfl
@[simp] theorem writeMsr_pir : (writeMsr s m).pir = s.pir := rfl
@[simp] theorem writeMsr_mem : (writeMsr s m).mem = s.mem := rfl
@[simp] theorem writeMsr_windows : (writeMsr s m).windows = { s.windows with msr := s.windows.msr ||| ((s.msr ^^^ m) &&& windowedBits s.cfg) } := rfl
@[simp] theorem writeMsr_storedSince : (writeMsr s m).storedSince = s.storedSince := rfl
@[simp] theorem writeMsr_inputs : (writeMsr s m).inputs = s.inputs := rfl
@[simp] theorem writeMsr_deviceIn : (writeMsr s m).deviceIn = s.deviceIn := rfl
@[simp] theorem writeMsr_deviceOut : (writeMsr s m).deviceOut = s.deviceOut := rfl
@[simp] theorem writeMsr_excCount : (writeMsr s m).excCount = s.excCount := rfl
@[simp] theorem writeMsr_freeCtr : (writeMsr s m).freeCtr = s.freeCtr := rfl

end

/-! ## writeDec -/

section
variable (s : State) (v : Word32)

@[simp] theorem writeDec_cfg : (writeDec s v).cfg = s.cfg := rfl
@[simp] theorem writeDec_gpr : (writeDec s v).gpr = s.gpr := rfl
@[simp] theorem writeDec_fpr : (writeDec s v).fpr = s.fpr := rfl
@[simp] theorem writeDec_cr : (writeDec s v).cr = s.cr := rfl
@[simp] theorem writeDec_fpscr : (writeDec s v).fpscr = s.fpscr := rfl
@[simp] theorem writeDec_xer : (writeDec s v).xer = s.xer := rfl
@[simp] theorem writeDec_lr : (writeDec s v).lr = s.lr := rfl
@[simp] theorem writeDec_ctr : (writeDec s v).ctr = s.ctr := rfl
@[simp] theorem writeDec_pc : (writeDec s v).pc = s.pc := rfl
@[simp] theorem writeDec_msr : (writeDec s v).msr = s.msr := rfl
@[simp] theorem writeDec_tb : (writeDec s v).tb = s.tb := rfl
@[simp] theorem writeDec_dec : (writeDec s v).dec = v := rfl
@[simp] theorem writeDec_decPending : (writeDec s v).decPending = (s.decPending || (!s.dec.getLsbD 31 && v.getLsbD 31)) := rfl
@[simp] theorem writeDec_ibat : (writeDec s v).ibat = s.ibat := rfl
@[simp] theorem writeDec_dbat : (writeDec s v).dbat = s.dbat := rfl
@[simp] theorem writeDec_sdr1 : (writeDec s v).sdr1 = s.sdr1 := rfl
@[simp] theorem writeDec_asr : (writeDec s v).asr = s.asr := rfl
@[simp] theorem writeDec_sr : (writeDec s v).sr = s.sr := rfl
@[simp] theorem writeDec_dar : (writeDec s v).dar = s.dar := rfl
@[simp] theorem writeDec_dsisr : (writeDec s v).dsisr = s.dsisr := rfl
@[simp] theorem writeDec_sprg : (writeDec s v).sprg = s.sprg := rfl
@[simp] theorem writeDec_srr0 : (writeDec s v).srr0 = s.srr0 := rfl
@[simp] theorem writeDec_srr1 : (writeDec s v).srr1 = s.srr1 := rfl
@[simp] theorem writeDec_dabr : (writeDec s v).dabr = s.dabr := rfl
@[simp] theorem writeDec_ear : (writeDec s v).ear = s.ear := rfl
@[simp] theorem writeDec_fpecr : (writeDec s v).fpecr = s.fpecr := rfl
@[simp] theorem writeDec_pir : (writeDec s v).pir = s.pir := rfl
@[simp] theorem writeDec_mem : (writeDec s v).mem = s.mem := rfl
@[simp] theorem writeDec_windows : (writeDec s v).windows = s.windows := rfl
@[simp] theorem writeDec_storedSince : (writeDec s v).storedSince = s.storedSince := rfl
@[simp] theorem writeDec_inputs : (writeDec s v).inputs = s.inputs := rfl
@[simp] theorem writeDec_deviceIn : (writeDec s v).deviceIn = s.deviceIn := rfl
@[simp] theorem writeDec_deviceOut : (writeDec s v).deviceOut = s.deviceOut := rfl
@[simp] theorem writeDec_excCount : (writeDec s v).excCount = s.excCount := rfl
@[simp] theorem writeDec_freeCtr : (writeDec s v).freeCtr = s.freeCtr := rfl

end

/-! ## writeEar -/

section
variable (s : State) (v : Word32)

@[simp] theorem writeEar_cfg : (writeEar s v).cfg = s.cfg := rfl
@[simp] theorem writeEar_gpr : (writeEar s v).gpr = s.gpr := rfl
@[simp] theorem writeEar_fpr : (writeEar s v).fpr = s.fpr := rfl
@[simp] theorem writeEar_cr : (writeEar s v).cr = s.cr := rfl
@[simp] theorem writeEar_fpscr : (writeEar s v).fpscr = s.fpscr := rfl
@[simp] theorem writeEar_xer : (writeEar s v).xer = s.xer := rfl
@[simp] theorem writeEar_lr : (writeEar s v).lr = s.lr := rfl
@[simp] theorem writeEar_ctr : (writeEar s v).ctr = s.ctr := rfl
@[simp] theorem writeEar_pc : (writeEar s v).pc = s.pc := rfl
@[simp] theorem writeEar_msr : (writeEar s v).msr = s.msr := rfl
@[simp] theorem writeEar_tb : (writeEar s v).tb = s.tb := rfl
@[simp] theorem writeEar_dec : (writeEar s v).dec = s.dec := rfl
@[simp] theorem writeEar_decPending : (writeEar s v).decPending = s.decPending := rfl
@[simp] theorem writeEar_ibat : (writeEar s v).ibat = s.ibat := rfl
@[simp] theorem writeEar_dbat : (writeEar s v).dbat = s.dbat := rfl
@[simp] theorem writeEar_sdr1 : (writeEar s v).sdr1 = s.sdr1 := rfl
@[simp] theorem writeEar_asr : (writeEar s v).asr = s.asr := rfl
@[simp] theorem writeEar_sr : (writeEar s v).sr = s.sr := rfl
@[simp] theorem writeEar_dar : (writeEar s v).dar = s.dar := rfl
@[simp] theorem writeEar_dsisr : (writeEar s v).dsisr = s.dsisr := rfl
@[simp] theorem writeEar_sprg : (writeEar s v).sprg = s.sprg := rfl
@[simp] theorem writeEar_srr0 : (writeEar s v).srr0 = s.srr0 := rfl
@[simp] theorem writeEar_srr1 : (writeEar s v).srr1 = s.srr1 := rfl
@[simp] theorem writeEar_dabr : (writeEar s v).dabr = s.dabr := rfl
@[simp] theorem writeEar_ear : (writeEar s v).ear = v := rfl
@[simp] theorem writeEar_fpecr : (writeEar s v).fpecr = s.fpecr := rfl
@[simp] theorem writeEar_pir : (writeEar s v).pir = s.pir := rfl
@[simp] theorem writeEar_mem : (writeEar s v).mem = s.mem := rfl
@[simp] theorem writeEar_windows : (writeEar s v).windows = { s.windows with ear := if v = s.ear then s.windows.ear else s.ear :: s.windows.ear } := rfl
@[simp] theorem writeEar_storedSince : (writeEar s v).storedSince = s.storedSince := rfl
@[simp] theorem writeEar_inputs : (writeEar s v).inputs = s.inputs := rfl
@[simp] theorem writeEar_deviceIn : (writeEar s v).deviceIn = s.deviceIn := rfl
@[simp] theorem writeEar_deviceOut : (writeEar s v).deviceOut = s.deviceOut := rfl
@[simp] theorem writeEar_excCount : (writeEar s v).excCount = s.excCount := rfl
@[simp] theorem writeEar_freeCtr : (writeEar s v).freeCtr = s.freeCtr := rfl

end

/-! ## writeSr -/

section
variable (s : State) (n : SrNum) (v : Word32)

@[simp] theorem writeSr_cfg : (writeSr s n v).cfg = s.cfg := rfl
@[simp] theorem writeSr_gpr : (writeSr s n v).gpr = s.gpr := rfl
@[simp] theorem writeSr_fpr : (writeSr s n v).fpr = s.fpr := rfl
@[simp] theorem writeSr_cr : (writeSr s n v).cr = s.cr := rfl
@[simp] theorem writeSr_fpscr : (writeSr s n v).fpscr = s.fpscr := rfl
@[simp] theorem writeSr_xer : (writeSr s n v).xer = s.xer := rfl
@[simp] theorem writeSr_lr : (writeSr s n v).lr = s.lr := rfl
@[simp] theorem writeSr_ctr : (writeSr s n v).ctr = s.ctr := rfl
@[simp] theorem writeSr_pc : (writeSr s n v).pc = s.pc := rfl
@[simp] theorem writeSr_msr : (writeSr s n v).msr = s.msr := rfl
@[simp] theorem writeSr_tb : (writeSr s n v).tb = s.tb := rfl
@[simp] theorem writeSr_dec : (writeSr s n v).dec = s.dec := rfl
@[simp] theorem writeSr_decPending : (writeSr s n v).decPending = s.decPending := rfl
@[simp] theorem writeSr_ibat : (writeSr s n v).ibat = s.ibat := rfl
@[simp] theorem writeSr_dbat : (writeSr s n v).dbat = s.dbat := rfl
@[simp] theorem writeSr_sdr1 : (writeSr s n v).sdr1 = s.sdr1 := rfl
@[simp] theorem writeSr_asr : (writeSr s n v).asr = s.asr := rfl
@[simp] theorem writeSr_sr : (writeSr s n v).sr = s.sr.set n.toNat v n.isLt := rfl
@[simp] theorem writeSr_dar : (writeSr s n v).dar = s.dar := rfl
@[simp] theorem writeSr_dsisr : (writeSr s n v).dsisr = s.dsisr := rfl
@[simp] theorem writeSr_sprg : (writeSr s n v).sprg = s.sprg := rfl
@[simp] theorem writeSr_srr0 : (writeSr s n v).srr0 = s.srr0 := rfl
@[simp] theorem writeSr_srr1 : (writeSr s n v).srr1 = s.srr1 := rfl
@[simp] theorem writeSr_dabr : (writeSr s n v).dabr = s.dabr := rfl
@[simp] theorem writeSr_ear : (writeSr s n v).ear = s.ear := rfl
@[simp] theorem writeSr_fpecr : (writeSr s n v).fpecr = s.fpecr := rfl
@[simp] theorem writeSr_pir : (writeSr s n v).pir = s.pir := rfl
@[simp] theorem writeSr_mem : (writeSr s n v).mem = s.mem := rfl
@[simp] theorem writeSr_windows : (writeSr s n v).windows = { s.windows with sr := openAt s.windows.sr n.toNat (v != s.sr[n.toNat]'n.isLt) } := rfl
@[simp] theorem writeSr_storedSince : (writeSr s n v).storedSince = s.storedSince := rfl
@[simp] theorem writeSr_inputs : (writeSr s n v).inputs = s.inputs := rfl
@[simp] theorem writeSr_deviceIn : (writeSr s n v).deviceIn = s.deviceIn := rfl
@[simp] theorem writeSr_deviceOut : (writeSr s n v).deviceOut = s.deviceOut := rfl
@[simp] theorem writeSr_excCount : (writeSr s n v).excCount = s.excCount := rfl
@[simp] theorem writeSr_freeCtr : (writeSr s n v).freeCtr = s.freeCtr := rfl

end

/-! ## dsiRegisters -/

section
variable (k : Access) (c : Word32) (ea : Word) (s : State)

@[simp] theorem dsiRegisters_cfg : (dsiRegisters k c ea s).cfg = s.cfg := rfl
@[simp] theorem dsiRegisters_gpr : (dsiRegisters k c ea s).gpr = s.gpr := rfl
@[simp] theorem dsiRegisters_fpr : (dsiRegisters k c ea s).fpr = s.fpr := rfl
@[simp] theorem dsiRegisters_cr : (dsiRegisters k c ea s).cr = s.cr := rfl
@[simp] theorem dsiRegisters_fpscr : (dsiRegisters k c ea s).fpscr = s.fpscr := rfl
@[simp] theorem dsiRegisters_xer : (dsiRegisters k c ea s).xer = s.xer := rfl
@[simp] theorem dsiRegisters_lr : (dsiRegisters k c ea s).lr = s.lr := rfl
@[simp] theorem dsiRegisters_ctr : (dsiRegisters k c ea s).ctr = s.ctr := rfl
@[simp] theorem dsiRegisters_pc : (dsiRegisters k c ea s).pc = s.pc := rfl
@[simp] theorem dsiRegisters_msr : (dsiRegisters k c ea s).msr = s.msr := rfl
@[simp] theorem dsiRegisters_tb : (dsiRegisters k c ea s).tb = s.tb := rfl
@[simp] theorem dsiRegisters_dec : (dsiRegisters k c ea s).dec = s.dec := rfl
@[simp] theorem dsiRegisters_decPending : (dsiRegisters k c ea s).decPending = s.decPending := rfl
@[simp] theorem dsiRegisters_ibat : (dsiRegisters k c ea s).ibat = s.ibat := rfl
@[simp] theorem dsiRegisters_dbat : (dsiRegisters k c ea s).dbat = s.dbat := rfl
@[simp] theorem dsiRegisters_sdr1 : (dsiRegisters k c ea s).sdr1 = s.sdr1 := rfl
@[simp] theorem dsiRegisters_asr : (dsiRegisters k c ea s).asr = s.asr := rfl
@[simp] theorem dsiRegisters_sr : (dsiRegisters k c ea s).sr = s.sr := rfl
@[simp] theorem dsiRegisters_dar : (dsiRegisters k c ea s).dar = effective s ea := rfl
@[simp] theorem dsiRegisters_dsisr : (dsiRegisters k c ea s).dsisr = c ||| (match k with | .load => 0 | .store => dsisrStore) := rfl
@[simp] theorem dsiRegisters_sprg : (dsiRegisters k c ea s).sprg = s.sprg := rfl
@[simp] theorem dsiRegisters_srr0 : (dsiRegisters k c ea s).srr0 = s.srr0 := rfl
@[simp] theorem dsiRegisters_srr1 : (dsiRegisters k c ea s).srr1 = s.srr1 := rfl
@[simp] theorem dsiRegisters_dabr : (dsiRegisters k c ea s).dabr = s.dabr := rfl
@[simp] theorem dsiRegisters_ear : (dsiRegisters k c ea s).ear = s.ear := rfl
@[simp] theorem dsiRegisters_fpecr : (dsiRegisters k c ea s).fpecr = s.fpecr := rfl
@[simp] theorem dsiRegisters_pir : (dsiRegisters k c ea s).pir = s.pir := rfl
@[simp] theorem dsiRegisters_mem : (dsiRegisters k c ea s).mem = s.mem := rfl
@[simp] theorem dsiRegisters_windows : (dsiRegisters k c ea s).windows = s.windows := rfl
@[simp] theorem dsiRegisters_storedSince : (dsiRegisters k c ea s).storedSince = s.storedSince := rfl
@[simp] theorem dsiRegisters_inputs : (dsiRegisters k c ea s).inputs = s.inputs := rfl
@[simp] theorem dsiRegisters_deviceIn : (dsiRegisters k c ea s).deviceIn = s.deviceIn := rfl
@[simp] theorem dsiRegisters_deviceOut : (dsiRegisters k c ea s).deviceOut = s.deviceOut := rfl
@[simp] theorem dsiRegisters_excCount : (dsiRegisters k c ea s).excCount = s.excCount := rfl
@[simp] theorem dsiRegisters_freeCtr : (dsiRegisters k c ea s).freeCtr = s.freeCtr := rfl

end

/-! ## alignmentRegisters -/

section
variable (ea : Word) (s : State)

@[simp] theorem alignmentRegisters_cfg : (alignmentRegisters ea s).cfg = s.cfg := rfl
@[simp] theorem alignmentRegisters_gpr : (alignmentRegisters ea s).gpr = s.gpr := rfl
@[simp] theorem alignmentRegisters_fpr : (alignmentRegisters ea s).fpr = s.fpr := rfl
@[simp] theorem alignmentRegisters_cr : (alignmentRegisters ea s).cr = s.cr := rfl
@[simp] theorem alignmentRegisters_fpscr : (alignmentRegisters ea s).fpscr = s.fpscr := rfl
@[simp] theorem alignmentRegisters_xer : (alignmentRegisters ea s).xer = s.xer := rfl
@[simp] theorem alignmentRegisters_lr : (alignmentRegisters ea s).lr = s.lr := rfl
@[simp] theorem alignmentRegisters_ctr : (alignmentRegisters ea s).ctr = s.ctr := rfl
@[simp] theorem alignmentRegisters_pc : (alignmentRegisters ea s).pc = s.pc := rfl
@[simp] theorem alignmentRegisters_msr : (alignmentRegisters ea s).msr = s.msr := rfl
@[simp] theorem alignmentRegisters_tb : (alignmentRegisters ea s).tb = s.tb := rfl
@[simp] theorem alignmentRegisters_dec : (alignmentRegisters ea s).dec = s.dec := rfl
@[simp] theorem alignmentRegisters_decPending : (alignmentRegisters ea s).decPending = s.decPending := rfl
@[simp] theorem alignmentRegisters_ibat : (alignmentRegisters ea s).ibat = s.ibat := rfl
@[simp] theorem alignmentRegisters_dbat : (alignmentRegisters ea s).dbat = s.dbat := rfl
@[simp] theorem alignmentRegisters_sdr1 : (alignmentRegisters ea s).sdr1 = s.sdr1 := rfl
@[simp] theorem alignmentRegisters_asr : (alignmentRegisters ea s).asr = s.asr := rfl
@[simp] theorem alignmentRegisters_sr : (alignmentRegisters ea s).sr = s.sr := rfl
@[simp] theorem alignmentRegisters_dar : (alignmentRegisters ea s).dar = effective s ea := rfl
@[simp] theorem alignmentRegisters_dsisr : (alignmentRegisters ea s).dsisr = lowWord (freeValue .dsisrAlignment s) := rfl
@[simp] theorem alignmentRegisters_sprg : (alignmentRegisters ea s).sprg = s.sprg := rfl
@[simp] theorem alignmentRegisters_srr0 : (alignmentRegisters ea s).srr0 = s.srr0 := rfl
@[simp] theorem alignmentRegisters_srr1 : (alignmentRegisters ea s).srr1 = s.srr1 := rfl
@[simp] theorem alignmentRegisters_dabr : (alignmentRegisters ea s).dabr = s.dabr := rfl
@[simp] theorem alignmentRegisters_ear : (alignmentRegisters ea s).ear = s.ear := rfl
@[simp] theorem alignmentRegisters_fpecr : (alignmentRegisters ea s).fpecr = s.fpecr := rfl
@[simp] theorem alignmentRegisters_pir : (alignmentRegisters ea s).pir = s.pir := rfl
@[simp] theorem alignmentRegisters_mem : (alignmentRegisters ea s).mem = s.mem := rfl
@[simp] theorem alignmentRegisters_windows : (alignmentRegisters ea s).windows = s.windows := rfl
@[simp] theorem alignmentRegisters_storedSince : (alignmentRegisters ea s).storedSince = s.storedSince := rfl
@[simp] theorem alignmentRegisters_inputs : (alignmentRegisters ea s).inputs = s.inputs := rfl
@[simp] theorem alignmentRegisters_deviceIn : (alignmentRegisters ea s).deviceIn = s.deviceIn := rfl
@[simp] theorem alignmentRegisters_deviceOut : (alignmentRegisters ea s).deviceOut = s.deviceOut := rfl
@[simp] theorem alignmentRegisters_excCount : (alignmentRegisters ea s).excCount = s.excCount := rfl
@[simp] theorem alignmentRegisters_freeCtr : (alignmentRegisters ea s).freeCtr = s.freeCtr := rfl

end

/-! ## closeLookaside -/

section
variable (s : State)

@[simp] theorem closeLookaside_cfg : (closeLookaside s).cfg = s.cfg := rfl
@[simp] theorem closeLookaside_gpr : (closeLookaside s).gpr = s.gpr := rfl
@[simp] theorem closeLookaside_fpr : (closeLookaside s).fpr = s.fpr := rfl
@[simp] theorem closeLookaside_cr : (closeLookaside s).cr = s.cr := rfl
@[simp] theorem closeLookaside_fpscr : (closeLookaside s).fpscr = s.fpscr := rfl
@[simp] theorem closeLookaside_xer : (closeLookaside s).xer = s.xer := rfl
@[simp] theorem closeLookaside_lr : (closeLookaside s).lr = s.lr := rfl
@[simp] theorem closeLookaside_ctr : (closeLookaside s).ctr = s.ctr := rfl
@[simp] theorem closeLookaside_pc : (closeLookaside s).pc = s.pc := rfl
@[simp] theorem closeLookaside_msr : (closeLookaside s).msr = s.msr := rfl
@[simp] theorem closeLookaside_tb : (closeLookaside s).tb = s.tb := rfl
@[simp] theorem closeLookaside_dec : (closeLookaside s).dec = s.dec := rfl
@[simp] theorem closeLookaside_decPending : (closeLookaside s).decPending = s.decPending := rfl
@[simp] theorem closeLookaside_ibat : (closeLookaside s).ibat = s.ibat := rfl
@[simp] theorem closeLookaside_dbat : (closeLookaside s).dbat = s.dbat := rfl
@[simp] theorem closeLookaside_sdr1 : (closeLookaside s).sdr1 = s.sdr1 := rfl
@[simp] theorem closeLookaside_asr : (closeLookaside s).asr = s.asr := rfl
@[simp] theorem closeLookaside_sr : (closeLookaside s).sr = s.sr := rfl
@[simp] theorem closeLookaside_dar : (closeLookaside s).dar = s.dar := rfl
@[simp] theorem closeLookaside_dsisr : (closeLookaside s).dsisr = s.dsisr := rfl
@[simp] theorem closeLookaside_sprg : (closeLookaside s).sprg = s.sprg := rfl
@[simp] theorem closeLookaside_srr0 : (closeLookaside s).srr0 = s.srr0 := rfl
@[simp] theorem closeLookaside_srr1 : (closeLookaside s).srr1 = s.srr1 := rfl
@[simp] theorem closeLookaside_dabr : (closeLookaside s).dabr = s.dabr := rfl
@[simp] theorem closeLookaside_ear : (closeLookaside s).ear = s.ear := rfl
@[simp] theorem closeLookaside_fpecr : (closeLookaside s).fpecr = s.fpecr := rfl
@[simp] theorem closeLookaside_pir : (closeLookaside s).pir = s.pir := rfl
@[simp] theorem closeLookaside_mem : (closeLookaside s).mem = s.mem := rfl
@[simp] theorem closeLookaside_windows : (closeLookaside s).windows = { s.windows with slb := false, tlb := false } := rfl
@[simp] theorem closeLookaside_storedSince : (closeLookaside s).storedSince = s.storedSince := rfl
@[simp] theorem closeLookaside_inputs : (closeLookaside s).inputs = s.inputs := rfl
@[simp] theorem closeLookaside_deviceIn : (closeLookaside s).deviceIn = s.deviceIn := rfl
@[simp] theorem closeLookaside_deviceOut : (closeLookaside s).deviceOut = s.deviceOut := rfl
@[simp] theorem closeLookaside_excCount : (closeLookaside s).excCount = s.excCount := rfl
@[simp] theorem closeLookaside_freeCtr : (closeLookaside s).freeCtr = s.freeCtr := rfl

end

/-! ## openSlb -/

section
variable (s : State)

@[simp] theorem openSlb_cfg : (openSlb s).cfg = s.cfg := rfl
@[simp] theorem openSlb_gpr : (openSlb s).gpr = s.gpr := rfl
@[simp] theorem openSlb_fpr : (openSlb s).fpr = s.fpr := rfl
@[simp] theorem openSlb_cr : (openSlb s).cr = s.cr := rfl
@[simp] theorem openSlb_fpscr : (openSlb s).fpscr = s.fpscr := rfl
@[simp] theorem openSlb_xer : (openSlb s).xer = s.xer := rfl
@[simp] theorem openSlb_lr : (openSlb s).lr = s.lr := rfl
@[simp] theorem openSlb_ctr : (openSlb s).ctr = s.ctr := rfl
@[simp] theorem openSlb_pc : (openSlb s).pc = s.pc := rfl
@[simp] theorem openSlb_msr : (openSlb s).msr = s.msr := rfl
@[simp] theorem openSlb_tb : (openSlb s).tb = s.tb := rfl
@[simp] theorem openSlb_dec : (openSlb s).dec = s.dec := rfl
@[simp] theorem openSlb_decPending : (openSlb s).decPending = s.decPending := rfl
@[simp] theorem openSlb_ibat : (openSlb s).ibat = s.ibat := rfl
@[simp] theorem openSlb_dbat : (openSlb s).dbat = s.dbat := rfl
@[simp] theorem openSlb_sdr1 : (openSlb s).sdr1 = s.sdr1 := rfl
@[simp] theorem openSlb_asr : (openSlb s).asr = s.asr := rfl
@[simp] theorem openSlb_sr : (openSlb s).sr = s.sr := rfl
@[simp] theorem openSlb_dar : (openSlb s).dar = s.dar := rfl
@[simp] theorem openSlb_dsisr : (openSlb s).dsisr = s.dsisr := rfl
@[simp] theorem openSlb_sprg : (openSlb s).sprg = s.sprg := rfl
@[simp] theorem openSlb_srr0 : (openSlb s).srr0 = s.srr0 := rfl
@[simp] theorem openSlb_srr1 : (openSlb s).srr1 = s.srr1 := rfl
@[simp] theorem openSlb_dabr : (openSlb s).dabr = s.dabr := rfl
@[simp] theorem openSlb_ear : (openSlb s).ear = s.ear := rfl
@[simp] theorem openSlb_fpecr : (openSlb s).fpecr = s.fpecr := rfl
@[simp] theorem openSlb_pir : (openSlb s).pir = s.pir := rfl
@[simp] theorem openSlb_mem : (openSlb s).mem = s.mem := rfl
@[simp] theorem openSlb_windows : (openSlb s).windows = { s.windows with slb := true } := rfl
@[simp] theorem openSlb_storedSince : (openSlb s).storedSince = s.storedSince := rfl
@[simp] theorem openSlb_inputs : (openSlb s).inputs = s.inputs := rfl
@[simp] theorem openSlb_deviceIn : (openSlb s).deviceIn = s.deviceIn := rfl
@[simp] theorem openSlb_deviceOut : (openSlb s).deviceOut = s.deviceOut := rfl
@[simp] theorem openSlb_excCount : (openSlb s).excCount = s.excCount := rfl
@[simp] theorem openSlb_freeCtr : (openSlb s).freeCtr = s.freeCtr := rfl

end

/-! ## openTlb -/

section
variable (s : State)

@[simp] theorem openTlb_cfg : (openTlb s).cfg = s.cfg := rfl
@[simp] theorem openTlb_gpr : (openTlb s).gpr = s.gpr := rfl
@[simp] theorem openTlb_fpr : (openTlb s).fpr = s.fpr := rfl
@[simp] theorem openTlb_cr : (openTlb s).cr = s.cr := rfl
@[simp] theorem openTlb_fpscr : (openTlb s).fpscr = s.fpscr := rfl
@[simp] theorem openTlb_xer : (openTlb s).xer = s.xer := rfl
@[simp] theorem openTlb_lr : (openTlb s).lr = s.lr := rfl
@[simp] theorem openTlb_ctr : (openTlb s).ctr = s.ctr := rfl
@[simp] theorem openTlb_pc : (openTlb s).pc = s.pc := rfl
@[simp] theorem openTlb_msr : (openTlb s).msr = s.msr := rfl
@[simp] theorem openTlb_tb : (openTlb s).tb = s.tb := rfl
@[simp] theorem openTlb_dec : (openTlb s).dec = s.dec := rfl
@[simp] theorem openTlb_decPending : (openTlb s).decPending = s.decPending := rfl
@[simp] theorem openTlb_ibat : (openTlb s).ibat = s.ibat := rfl
@[simp] theorem openTlb_dbat : (openTlb s).dbat = s.dbat := rfl
@[simp] theorem openTlb_sdr1 : (openTlb s).sdr1 = s.sdr1 := rfl
@[simp] theorem openTlb_asr : (openTlb s).asr = s.asr := rfl
@[simp] theorem openTlb_sr : (openTlb s).sr = s.sr := rfl
@[simp] theorem openTlb_dar : (openTlb s).dar = s.dar := rfl
@[simp] theorem openTlb_dsisr : (openTlb s).dsisr = s.dsisr := rfl
@[simp] theorem openTlb_sprg : (openTlb s).sprg = s.sprg := rfl
@[simp] theorem openTlb_srr0 : (openTlb s).srr0 = s.srr0 := rfl
@[simp] theorem openTlb_srr1 : (openTlb s).srr1 = s.srr1 := rfl
@[simp] theorem openTlb_dabr : (openTlb s).dabr = s.dabr := rfl
@[simp] theorem openTlb_ear : (openTlb s).ear = s.ear := rfl
@[simp] theorem openTlb_fpecr : (openTlb s).fpecr = s.fpecr := rfl
@[simp] theorem openTlb_pir : (openTlb s).pir = s.pir := rfl
@[simp] theorem openTlb_mem : (openTlb s).mem = s.mem := rfl
@[simp] theorem openTlb_windows : (openTlb s).windows = { s.windows with tlb := true } := rfl
@[simp] theorem openTlb_storedSince : (openTlb s).storedSince = s.storedSince := rfl
@[simp] theorem openTlb_inputs : (openTlb s).inputs = s.inputs := rfl
@[simp] theorem openTlb_deviceIn : (openTlb s).deviceIn = s.deviceIn := rfl
@[simp] theorem openTlb_deviceOut : (openTlb s).deviceOut = s.deviceOut := rfl
@[simp] theorem openTlb_excCount : (openTlb s).excCount = s.excCount := rfl
@[simp] theorem openTlb_freeCtr : (openTlb s).freeCtr = s.freeCtr := rfl

end

/-! ## deviceSend -/

section
variable (s : State) (rid : BitVec 6) (pa : Word) (v : Word32)

@[simp] theorem deviceSend_cfg : (deviceSend s rid pa v).cfg = s.cfg := rfl
@[simp] theorem deviceSend_gpr : (deviceSend s rid pa v).gpr = s.gpr := rfl
@[simp] theorem deviceSend_fpr : (deviceSend s rid pa v).fpr = s.fpr := rfl
@[simp] theorem deviceSend_cr : (deviceSend s rid pa v).cr = s.cr := rfl
@[simp] theorem deviceSend_fpscr : (deviceSend s rid pa v).fpscr = s.fpscr := rfl
@[simp] theorem deviceSend_xer : (deviceSend s rid pa v).xer = s.xer := rfl
@[simp] theorem deviceSend_lr : (deviceSend s rid pa v).lr = s.lr := rfl
@[simp] theorem deviceSend_ctr : (deviceSend s rid pa v).ctr = s.ctr := rfl
@[simp] theorem deviceSend_pc : (deviceSend s rid pa v).pc = s.pc := rfl
@[simp] theorem deviceSend_msr : (deviceSend s rid pa v).msr = s.msr := rfl
@[simp] theorem deviceSend_tb : (deviceSend s rid pa v).tb = s.tb := rfl
@[simp] theorem deviceSend_dec : (deviceSend s rid pa v).dec = s.dec := rfl
@[simp] theorem deviceSend_decPending : (deviceSend s rid pa v).decPending = s.decPending := rfl
@[simp] theorem deviceSend_ibat : (deviceSend s rid pa v).ibat = s.ibat := rfl
@[simp] theorem deviceSend_dbat : (deviceSend s rid pa v).dbat = s.dbat := rfl
@[simp] theorem deviceSend_sdr1 : (deviceSend s rid pa v).sdr1 = s.sdr1 := rfl
@[simp] theorem deviceSend_asr : (deviceSend s rid pa v).asr = s.asr := rfl
@[simp] theorem deviceSend_sr : (deviceSend s rid pa v).sr = s.sr := rfl
@[simp] theorem deviceSend_dar : (deviceSend s rid pa v).dar = s.dar := rfl
@[simp] theorem deviceSend_dsisr : (deviceSend s rid pa v).dsisr = s.dsisr := rfl
@[simp] theorem deviceSend_sprg : (deviceSend s rid pa v).sprg = s.sprg := rfl
@[simp] theorem deviceSend_srr0 : (deviceSend s rid pa v).srr0 = s.srr0 := rfl
@[simp] theorem deviceSend_srr1 : (deviceSend s rid pa v).srr1 = s.srr1 := rfl
@[simp] theorem deviceSend_dabr : (deviceSend s rid pa v).dabr = s.dabr := rfl
@[simp] theorem deviceSend_ear : (deviceSend s rid pa v).ear = s.ear := rfl
@[simp] theorem deviceSend_fpecr : (deviceSend s rid pa v).fpecr = s.fpecr := rfl
@[simp] theorem deviceSend_pir : (deviceSend s rid pa v).pir = s.pir := rfl
@[simp] theorem deviceSend_mem : (deviceSend s rid pa v).mem = s.mem := rfl
@[simp] theorem deviceSend_windows : (deviceSend s rid pa v).windows = s.windows := rfl
@[simp] theorem deviceSend_storedSince : (deviceSend s rid pa v).storedSince = s.storedSince := rfl
@[simp] theorem deviceSend_inputs : (deviceSend s rid pa v).inputs = s.inputs := rfl
@[simp] theorem deviceSend_deviceIn : (deviceSend s rid pa v).deviceIn = s.deviceIn := rfl
@[simp] theorem deviceSend_deviceOut : (deviceSend s rid pa v).deviceOut = s.deviceOut ++ [⟨rid, pa, v⟩] := rfl
@[simp] theorem deviceSend_excCount : (deviceSend s rid pa v).excCount = s.excCount := rfl
@[simp] theorem deviceSend_freeCtr : (deviceSend s rid pa v).freeCtr = s.freeCtr := rfl

end

/-! ## storeBytes -/

section
variable (s : State) (ea : Word) (n : Nat) (f : Nat → Byte)

@[simp] theorem storeBytes_cfg : (storeBytes s ea n f).cfg = s.cfg := rfl
@[simp] theorem storeBytes_gpr : (storeBytes s ea n f).gpr = s.gpr := rfl
@[simp] theorem storeBytes_fpr : (storeBytes s ea n f).fpr = s.fpr := rfl
@[simp] theorem storeBytes_cr : (storeBytes s ea n f).cr = s.cr := rfl
@[simp] theorem storeBytes_fpscr : (storeBytes s ea n f).fpscr = s.fpscr := rfl
@[simp] theorem storeBytes_xer : (storeBytes s ea n f).xer = s.xer := rfl
@[simp] theorem storeBytes_lr : (storeBytes s ea n f).lr = s.lr := rfl
@[simp] theorem storeBytes_ctr : (storeBytes s ea n f).ctr = s.ctr := rfl
@[simp] theorem storeBytes_pc : (storeBytes s ea n f).pc = s.pc := rfl
@[simp] theorem storeBytes_msr : (storeBytes s ea n f).msr = s.msr := rfl
@[simp] theorem storeBytes_tb : (storeBytes s ea n f).tb = s.tb := rfl
@[simp] theorem storeBytes_dec : (storeBytes s ea n f).dec = s.dec := rfl
@[simp] theorem storeBytes_decPending : (storeBytes s ea n f).decPending = s.decPending := rfl
@[simp] theorem storeBytes_ibat : (storeBytes s ea n f).ibat = s.ibat := rfl
@[simp] theorem storeBytes_dbat : (storeBytes s ea n f).dbat = s.dbat := rfl
@[simp] theorem storeBytes_sdr1 : (storeBytes s ea n f).sdr1 = s.sdr1 := rfl
@[simp] theorem storeBytes_asr : (storeBytes s ea n f).asr = s.asr := rfl
@[simp] theorem storeBytes_sr : (storeBytes s ea n f).sr = s.sr := rfl
@[simp] theorem storeBytes_dar : (storeBytes s ea n f).dar = s.dar := rfl
@[simp] theorem storeBytes_dsisr : (storeBytes s ea n f).dsisr = s.dsisr := rfl
@[simp] theorem storeBytes_sprg : (storeBytes s ea n f).sprg = s.sprg := rfl
@[simp] theorem storeBytes_srr0 : (storeBytes s ea n f).srr0 = s.srr0 := rfl
@[simp] theorem storeBytes_srr1 : (storeBytes s ea n f).srr1 = s.srr1 := rfl
@[simp] theorem storeBytes_dabr : (storeBytes s ea n f).dabr = s.dabr := rfl
@[simp] theorem storeBytes_ear : (storeBytes s ea n f).ear = s.ear := rfl
@[simp] theorem storeBytes_fpecr : (storeBytes s ea n f).fpecr = s.fpecr := rfl
@[simp] theorem storeBytes_pir : (storeBytes s ea n f).pir = s.pir := rfl
@[simp] theorem storeBytes_mem : (storeBytes s ea n f).mem = memWriteAll s.mem ((List.range n).map (fun k => (byteAddr s ea k, f k))) := rfl
@[simp] theorem storeBytes_windows : (storeBytes s ea n f).windows = s.windows := rfl
@[simp] theorem storeBytes_storedSince : (storeBytes s ea n f).storedSince = (List.range n).map (byteAddr s ea) ++ s.storedSince := rfl
@[simp] theorem storeBytes_inputs : (storeBytes s ea n f).inputs = s.inputs := rfl
@[simp] theorem storeBytes_deviceIn : (storeBytes s ea n f).deviceIn = s.deviceIn := rfl
@[simp] theorem storeBytes_deviceOut : (storeBytes s ea n f).deviceOut = s.deviceOut := rfl
@[simp] theorem storeBytes_excCount : (storeBytes s ea n f).excCount = s.excCount := rfl
@[simp] theorem storeBytes_freeCtr : (storeBytes s ea n f).freeCtr = s.freeCtr := rfl

end

/-! ## branchTo -/

section
variable (s : State) (c : Word) (lk t : Bool) (a : Word)

@[simp] theorem branchTo_cfg : (branchTo s c lk t a).cfg = s.cfg := rfl
@[simp] theorem branchTo_gpr : (branchTo s c lk t a).gpr = s.gpr := rfl
@[simp] theorem branchTo_fpr : (branchTo s c lk t a).fpr = s.fpr := rfl
@[simp] theorem branchTo_cr : (branchTo s c lk t a).cr = s.cr := rfl
@[simp] theorem branchTo_fpscr : (branchTo s c lk t a).fpscr = s.fpscr := rfl
@[simp] theorem branchTo_xer : (branchTo s c lk t a).xer = s.xer := rfl
@[simp] theorem branchTo_lr : (branchTo s c lk t a).lr = linked s lk := rfl
@[simp] theorem branchTo_ctr : (branchTo s c lk t a).ctr = c := rfl
@[simp] theorem branchTo_pc : (branchTo s c lk t a).pc = if t then a else nextPc s := rfl
@[simp] theorem branchTo_msr : (branchTo s c lk t a).msr = s.msr := rfl
@[simp] theorem branchTo_tb : (branchTo s c lk t a).tb = s.tb := rfl
@[simp] theorem branchTo_dec : (branchTo s c lk t a).dec = s.dec := rfl
@[simp] theorem branchTo_decPending : (branchTo s c lk t a).decPending = s.decPending := rfl
@[simp] theorem branchTo_ibat : (branchTo s c lk t a).ibat = s.ibat := rfl
@[simp] theorem branchTo_dbat : (branchTo s c lk t a).dbat = s.dbat := rfl
@[simp] theorem branchTo_sdr1 : (branchTo s c lk t a).sdr1 = s.sdr1 := rfl
@[simp] theorem branchTo_asr : (branchTo s c lk t a).asr = s.asr := rfl
@[simp] theorem branchTo_sr : (branchTo s c lk t a).sr = s.sr := rfl
@[simp] theorem branchTo_dar : (branchTo s c lk t a).dar = s.dar := rfl
@[simp] theorem branchTo_dsisr : (branchTo s c lk t a).dsisr = s.dsisr := rfl
@[simp] theorem branchTo_sprg : (branchTo s c lk t a).sprg = s.sprg := rfl
@[simp] theorem branchTo_srr0 : (branchTo s c lk t a).srr0 = s.srr0 := rfl
@[simp] theorem branchTo_srr1 : (branchTo s c lk t a).srr1 = s.srr1 := rfl
@[simp] theorem branchTo_dabr : (branchTo s c lk t a).dabr = s.dabr := rfl
@[simp] theorem branchTo_ear : (branchTo s c lk t a).ear = s.ear := rfl
@[simp] theorem branchTo_fpecr : (branchTo s c lk t a).fpecr = s.fpecr := rfl
@[simp] theorem branchTo_pir : (branchTo s c lk t a).pir = s.pir := rfl
@[simp] theorem branchTo_mem : (branchTo s c lk t a).mem = s.mem := rfl
@[simp] theorem branchTo_windows : (branchTo s c lk t a).windows = s.windows := rfl
@[simp] theorem branchTo_storedSince : (branchTo s c lk t a).storedSince = s.storedSince := rfl
@[simp] theorem branchTo_inputs : (branchTo s c lk t a).inputs = s.inputs := rfl
@[simp] theorem branchTo_deviceIn : (branchTo s c lk t a).deviceIn = s.deviceIn := rfl
@[simp] theorem branchTo_deviceOut : (branchTo s c lk t a).deviceOut = s.deviceOut := rfl
@[simp] theorem branchTo_excCount : (branchTo s c lk t a).excCount = s.excCount := rfl
@[simp] theorem branchTo_freeCtr : (branchTo s c lk t a).freeCtr = s.freeCtr := rfl

end

/-! ## tick -/

section
variable (s : State)

@[simp] theorem tick_cfg : (tick s).cfg = s.cfg := rfl
@[simp] theorem tick_gpr : (tick s).gpr = s.gpr := rfl
@[simp] theorem tick_fpr : (tick s).fpr = s.fpr := rfl
@[simp] theorem tick_cr : (tick s).cr = s.cr := rfl
@[simp] theorem tick_fpscr : (tick s).fpscr = s.fpscr := rfl
@[simp] theorem tick_xer : (tick s).xer = s.xer := rfl
@[simp] theorem tick_lr : (tick s).lr = s.lr := rfl
@[simp] theorem tick_ctr : (tick s).ctr = s.ctr := rfl
@[simp] theorem tick_pc : (tick s).pc = s.pc := rfl
@[simp] theorem tick_msr : (tick s).msr = s.msr := rfl
@[simp] theorem tick_tb : (tick s).tb = s.tb + 1 := rfl
@[simp] theorem tick_dec : (tick s).dec = s.dec - 1 := rfl
@[simp] theorem tick_decPending : (tick s).decPending = (s.decPending || (!s.dec.getLsbD 31 && (s.dec - 1).getLsbD 31)) := rfl
@[simp] theorem tick_ibat : (tick s).ibat = s.ibat := rfl
@[simp] theorem tick_dbat : (tick s).dbat = s.dbat := rfl
@[simp] theorem tick_sdr1 : (tick s).sdr1 = s.sdr1 := rfl
@[simp] theorem tick_asr : (tick s).asr = s.asr := rfl
@[simp] theorem tick_sr : (tick s).sr = s.sr := rfl
@[simp] theorem tick_dar : (tick s).dar = s.dar := rfl
@[simp] theorem tick_dsisr : (tick s).dsisr = s.dsisr := rfl
@[simp] theorem tick_sprg : (tick s).sprg = s.sprg := rfl
@[simp] theorem tick_srr0 : (tick s).srr0 = s.srr0 := rfl
@[simp] theorem tick_srr1 : (tick s).srr1 = s.srr1 := rfl
@[simp] theorem tick_dabr : (tick s).dabr = s.dabr := rfl
@[simp] theorem tick_ear : (tick s).ear = s.ear := rfl
@[simp] theorem tick_fpecr : (tick s).fpecr = s.fpecr := rfl
@[simp] theorem tick_pir : (tick s).pir = s.pir := rfl
@[simp] theorem tick_mem : (tick s).mem = s.mem := rfl
@[simp] theorem tick_windows : (tick s).windows = s.windows := rfl
@[simp] theorem tick_storedSince : (tick s).storedSince = s.storedSince := rfl
@[simp] theorem tick_inputs : (tick s).inputs = s.inputs := rfl
@[simp] theorem tick_deviceIn : (tick s).deviceIn = s.deviceIn := rfl
@[simp] theorem tick_deviceOut : (tick s).deviceOut = s.deviceOut := rfl
@[simp] theorem tick_excCount : (tick s).excCount = s.excCount := rfl
@[simp] theorem tick_freeCtr : (tick s).freeCtr = s.freeCtr := rfl

end

/-! ## drawFree -/

section
variable (s : State)

@[simp] theorem drawFree_cfg : (drawFree s).cfg = s.cfg := rfl
@[simp] theorem drawFree_gpr : (drawFree s).gpr = s.gpr := rfl
@[simp] theorem drawFree_fpr : (drawFree s).fpr = s.fpr := rfl
@[simp] theorem drawFree_cr : (drawFree s).cr = s.cr := rfl
@[simp] theorem drawFree_fpscr : (drawFree s).fpscr = s.fpscr := rfl
@[simp] theorem drawFree_xer : (drawFree s).xer = s.xer := rfl
@[simp] theorem drawFree_lr : (drawFree s).lr = s.lr := rfl
@[simp] theorem drawFree_ctr : (drawFree s).ctr = s.ctr := rfl
@[simp] theorem drawFree_pc : (drawFree s).pc = s.pc := rfl
@[simp] theorem drawFree_msr : (drawFree s).msr = s.msr := rfl
@[simp] theorem drawFree_tb : (drawFree s).tb = s.tb := rfl
@[simp] theorem drawFree_dec : (drawFree s).dec = s.dec := rfl
@[simp] theorem drawFree_decPending : (drawFree s).decPending = s.decPending := rfl
@[simp] theorem drawFree_ibat : (drawFree s).ibat = s.ibat := rfl
@[simp] theorem drawFree_dbat : (drawFree s).dbat = s.dbat := rfl
@[simp] theorem drawFree_sdr1 : (drawFree s).sdr1 = s.sdr1 := rfl
@[simp] theorem drawFree_asr : (drawFree s).asr = s.asr := rfl
@[simp] theorem drawFree_sr : (drawFree s).sr = s.sr := rfl
@[simp] theorem drawFree_dar : (drawFree s).dar = s.dar := rfl
@[simp] theorem drawFree_dsisr : (drawFree s).dsisr = s.dsisr := rfl
@[simp] theorem drawFree_sprg : (drawFree s).sprg = s.sprg := rfl
@[simp] theorem drawFree_srr0 : (drawFree s).srr0 = s.srr0 := rfl
@[simp] theorem drawFree_srr1 : (drawFree s).srr1 = s.srr1 := rfl
@[simp] theorem drawFree_dabr : (drawFree s).dabr = s.dabr := rfl
@[simp] theorem drawFree_ear : (drawFree s).ear = s.ear := rfl
@[simp] theorem drawFree_fpecr : (drawFree s).fpecr = s.fpecr := rfl
@[simp] theorem drawFree_pir : (drawFree s).pir = s.pir := rfl
@[simp] theorem drawFree_mem : (drawFree s).mem = s.mem := rfl
@[simp] theorem drawFree_windows : (drawFree s).windows = s.windows := rfl
@[simp] theorem drawFree_storedSince : (drawFree s).storedSince = s.storedSince := rfl
@[simp] theorem drawFree_inputs : (drawFree s).inputs = s.inputs := rfl
@[simp] theorem drawFree_deviceIn : (drawFree s).deviceIn = s.deviceIn := rfl
@[simp] theorem drawFree_deviceOut : (drawFree s).deviceOut = s.deviceOut := rfl
@[simp] theorem drawFree_excCount : (drawFree s).excCount = s.excCount := rfl
@[simp] theorem drawFree_freeCtr : (drawFree s).freeCtr = s.freeCtr + 1 := rfl

end

end Sys2Proof.Machine
end

