-- ==== Sys2Proof/Laws/Ops.lean ====
section
/-! SUPPORT. For each shared operation, what it can do: if it answers a next state, then which. -/

namespace Sys2Proof.Machine

open Sys2Proof.Config

theorem andThen_next {o : Out} {f : State → Out} {t : State} (h : andThen o f = .next t) :
    ∃ u, o = .next u ∧ f u = .next t := by
  cases o with
  | next u => exact ⟨u, rfl, h⟩
  | fault r => cases h
  | refused r => cases h

/-! ## Registers -/

theorem readGpr_writeGpr_same (s : State) (r : GprNum) (v : Word) : readGpr (writeGpr s r v) r = toWidth s.cfg v := by
  simp [readGpr, writeGpr]

theorem readFpr_writeFpr_same (s : State) (r : FprNum) (v : BitVec 64) : readFpr (writeFpr s r v) r = v := by
  simp [readFpr, writeFpr]

theorem readFpr_writeFpr_other (s : State) {r q : FprNum} (v : BitVec 64) (h : q ≠ r) :
    readFpr (writeFpr s r v) q = readFpr s q := by
  have : r.toNat ≠ q.toNat := fun e => h (BitVec.eq_of_toNat_eq e.symm)
  simp [readFpr, writeFpr, this]

theorem readGpr_writeGpr_other (s : State) {r q : GprNum} (v : Word) (h : q ≠ r) :
    readGpr (writeGpr s r v) q = readGpr s q := by
  have : r.toNat ≠ q.toNat := fun e => h (BitVec.eq_of_toNat_eq e.symm)
  simp [readGpr, writeGpr, this]

/-! ## The context: what the rules of the present instruction read does not change under register writes -/

/-- Two states in which an instruction sees the same context. -/
structure SameContext (s t : State) : Prop where
  cfg : t.cfg = s.cfg
  msr : t.msr = s.msr
  windows : t.windows.msr = s.windows.msr
  freeCtr : t.freeCtr = s.freeCtr

theorem SameContext.contextMsr {s t : State} (h : SameContext s t) : contextMsr t = contextMsr s := by
  simp [Machine.contextMsr, freeValue, h.msr, h.windows, h.freeCtr]

theorem SameContext.effective {s t : State} (h : SameContext s t) (a : Word) : effective t a = effective s a := by
  simp [Machine.effective, mode64, h.contextMsr, h.cfg]

theorem SameContext.nextPc {s t : State} (h : SameContext s t) (hp : t.pc = s.pc) : nextPc t = nextPc s := by
  simp [Machine.nextPc, h.effective, hp]

theorem SameContext.visibleMsr {s t : State} (h : SameContext s t) : visibleMsr t = visibleMsr s := by
  simp [Machine.visibleMsr, freeValue, h.msr, h.cfg, h.freeCtr]

/-! ## Conditions checked first -/

theorem supervisorOnly_next {s t : State} {k : Out} (h : supervisorOnly s k = .next t) :
    (userMode s = false ∧ k = .next t) ∨ (userMode s = true ∧ raise (.program .privilegedInstruction) s = .next t) := by
  unfold supervisorOnly at h
  split at h
  · exact .inr ⟨‹_›, h⟩
  · exact .inl ⟨(Bool.not_eq_true _).mp ‹_›, h⟩

theorem presentIf_next {b : Bool} {k : Out} {t : State} (h : presentIf b k = .next t) : b = true ∧ k = .next t := by
  unfold presentIf at h
  split at h
  · exact ⟨‹_›, h⟩
  · cases h

theorem fpAvailable_next {s t : State} {k : Out} (h : fpAvailable s k = .next t) :
    (msrFP (contextMsr s) = true ∧ k = .next t) ∨
      (msrFP (contextMsr s) = false ∧ raise .fpUnavailable s = .next t) := by
  unfold fpAvailable at h
  split at h
  · exact .inl ⟨‹_›, h⟩
  · exact .inr ⟨(Bool.not_eq_true _).mp ‹_›, h⟩

theorem fpComplete_next {rc : Bool} {s t : State} (h : fpComplete rc s = .next t) :
    fpTrapDue s = false ∧ t = (if rc then writeCrField s 1 (field4 (visibleFpscr s) 0) else s) := by
  unfold fpComplete at h
  split at h
  · cases h
  · cases h; exact ⟨(Bool.not_eq_true _).mp ‹_›, rfl⟩

theorem compareInto_next {s t : State} {f : FieldNum} {l : Bool} {v : BitVec 4} (h : compareInto s f l v = .next t) :
    compareFormOk s l = true ∧ t = advance (writeCrField s f v) := by
  unfold compareInto at h
  split at h
  · cases h; exact ⟨‹_›, rfl⟩
  · cases h

/-! ## Exceptions and returns -/

theorem enter_next {e : Exception} {a : Word} {s t : State} (h : enter e a s = .next t) :
    msrILE s.msr = false ∧ t = entered e a s := by
  unfold enter at h
  split at h
  · cases h
  · cases h; exact ⟨(Bool.not_eq_true _).mp ‹_›, rfl⟩

theorem raise_next {e : Exception} {s t : State} (h : raise e s = .next t) :
    msrILE s.msr = false ∧ t = entered e s.pc s := enter_next h

theorem enter_of_big_endian {s : State} (h : msrILE s.msr = false) (e : Exception) (a : Word) :
    enter e a s = .next (entered e a s) := by simp [enter, h]

/-- What exception entry does, all of it: five registers and the model's count, and the windows of a synchronizing
exception. -/
theorem entered_eq (e : Exception) (a : Word) (s : State) :
    entered e a s = { s with
      srr0 := effective s a
      srr1 := savedSrr1 e s
      msr := entryMsr s.cfg e s.msr
      pc := vector s.cfg s.msr e
      excCount := s.excCount + 1
      windows := if synchronizes e s then Windows.closed else s.windows
      storedSince := if synchronizes e s then [] else s.storedSince } := by
  unfold entered
  split <;> simp_all [contextSync]

theorem returnFromException_next {m : Word} {s t : State} (h : returnFromException m s = .next t) :
    unsupportedMsr s.cfg (merge s.msr s.srr1 m) = none ∧
      t = contextSync { s with
        msr := merge s.msr s.srr1 m
        pc := if is64 s.cfg && msrSF (merge s.msr s.srr1 m) then clearLow2 s.srr0 else low32 (clearLow2 s.srr0) } := by
  simp only [returnFromException] at h
  split at h
  · cases h
  · cases h; exact ⟨‹_›, rfl⟩

theorem moveToMsr_next {m : Word} {s t : State} (h : moveToMsr s m = .next t) :
    unsupportedMsr s.cfg m = none ∧ t = { writeMsr s m with pc := nextPc s } := by
  unfold moveToMsr at h
  split at h
  · cases h
  · cases h; exact ⟨‹_›, rfl⟩

theorem undefinedTreatment_next {b : Bool} {r : Refusal} {s t : State} (h : undefinedTreatment b r s = .next t) :
    ∃ c, (c = .illegalInstruction ∨ c = .privilegedInstruction) ∧ raise (.program c) s = .next t := by
  unfold undefinedTreatment at h
  split at h
  · exact ⟨_, .inl rfl, h⟩
  · exact ⟨_, .inr rfl, h⟩
  · cases h
  · split at h
    · exact ⟨_, by cases b <;> simp, h⟩
    · cases h

/-- The undefined case of R184 and U2: a program exception at the instruction, or the refusal. -/
theorem undefinedTreatment_cases (b : Bool) (r : Refusal) (s : State) :
    undefinedTreatment b r s = .refused r ∨
      ∃ c, (c = .illegalInstruction ∨ c = .privilegedInstruction) ∧ undefinedTreatment b r s = raise (.program c) s := by
  unfold undefinedTreatment
  split
  · exact .inr ⟨_, .inl rfl, rfl⟩
  · exact .inr ⟨_, .inr rfl, rfl⟩
  · exact .inl rfl
  · split
    · exact .inr ⟨_, by cases b <;> simp, rfl⟩
    · exact .inl rfl

theorem segmentMove_next {s t : State} {k : Out} (h : segmentMove s k = .next t) :
    (is64 s.cfg = false ∧ userMode s = false ∧ k = .next t) ∨ ∃ c, raise (.program c) s = .next t := by
  unfold segmentMove at h
  split at h
  · rcases supervisorOnly_next h with ⟨hu, hk⟩ | ⟨-, hr⟩
    · exact .inl ⟨by simp_all, hu, hk⟩
    · exact .inr ⟨_, hr⟩
  split at h
  · rcases supervisorOnly_next h with ⟨-, hk⟩ | ⟨-, hr⟩
    · cases hk
    · exact .inr ⟨_, hr⟩
  · obtain ⟨c, -, hr⟩ := undefinedTreatment_next h
    exact .inr ⟨c, hr⟩

/-! ## Data accesses -/

theorem dataAccess_next {kind : Access} {ea : Word} {n : Nat} {s t : State} {k : Out}
    (h : dataAccess kind ea n s k = .next t) :
    (dabrMatch s kind ea n = true ∧ raise .dsi (dsiRegisters kind dsisrDabr ea s) = .next t) ∨
      (dabrMatch s kind ea n = false ∧ accessRefusal s ea n = none ∧ k = .next t) := by
  unfold dataAccess at h
  split at h
  · exact .inl ⟨‹_›, h⟩
  · refine .inr ⟨(Bool.not_eq_true _).mp ‹_›, ?_⟩
    split at h
    · cases h
    · exact ⟨‹_›, h⟩

theorem checkAlignment_next {ea : Word} {s t : State} {k : Out} (h : checkAlignment ea s k = .next t) :
    k = .next t ∨ raise .alignment (alignmentRegisters ea s) = .next t := by
  unfold checkAlignment at h
  split at h
  · exact .inl h
  · split at h
    · exact .inl h
    · exact .inr h
    · cases h

theorem externalControl_next {kind : Access} {ea : Word} {s t : State} {k : Out}
    (h : externalControl kind ea s k = .next t) :
    (∃ c, raise .dsi (dsiRegisters kind c ea s) = .next t) ∨
      (wordAligned ea = true ∧ earEnabled (contextEar s) = true ∧ dabrMatch s kind ea 4 = false ∧
        msrDR (contextMsr s) = false ∧ k = .next t) := by
  unfold externalControl at h
  split at h
  · cases h
  split at h
  · exact .inl ⟨_, h⟩
  split at h
  · exact .inl ⟨_, h⟩
  split at h
  · cases h
  · refine .inr ⟨?_, ?_, ?_, ?_, h⟩ <;> simp_all

/-- What loading a string does: general registers and nothing else. -/
theorem loadString_eq (s : State) (rD : GprNum) (ea : Word) (n : Nat) :
    loadString s rD ea n = { s with gpr := (loadString s rD ea n).gpr } := by
  unfold loadString
  generalize stringRegs n = k
  induction k with
  | zero => rfl
  | succ k ih =>
    rw [List.range_succ, List.foldl_append]
    simp only [List.foldl_cons, List.foldl_nil]
    generalize List.foldl _ s (List.range k) = u at ih ⊢
    rw [ih]; rfl

/-! ## Boundaries -/

/-- What `n` ticks do (R360): two counters and the decrementer's request. -/
theorem ticks_eq (n : Nat) (s : State) :
    ticks n s = { s with
      tb := s.tb + BitVec.ofNat 64 n
      dec := s.dec - BitVec.ofNat 32 n
      decPending := (ticks n s).decPending } := by
  induction n generalizing s with
  | zero => simp [ticks]
  | succ n ih =>
    rw [ticks, ih (tick s)]
    have h1 : s.tb + 1 + BitVec.ofNat 64 n = s.tb + BitVec.ofNat 64 (n + 1) := by
      rw [BitVec.ofNat_add]; ac_rfl
    have h2 : s.dec - 1 - BitVec.ofNat 32 n = s.dec - BitVec.ofNat 32 (n + 1) := by
      rw [BitVec.ofNat_add, BitVec.add_comm, BitVec.sub_sub]; rfl
    simp only [tick_tb, tick_dec, h1, h2]
    rfl

theorem complete_next {i : Instr} {s t u : State} (h : complete i s t = .next u) :
    (t.excCount ≠ s.excCount ∧ u = t) ∨
      (t.excCount = s.excCount ∧ implicitBranch i s t = false ∧ fpTrapDue t = false ∧
        ((traced i s = true ∧ enter .trace t.pc (drawFree t) = .next u) ∨ (traced i s = false ∧ u = t))) := by
  unfold complete at h
  split at h
  · cases h; exact .inl ⟨‹_›, rfl⟩
  split at h
  · cases h
  split at h
  · cases h
  refine .inr ⟨not_ne_iff.mp ‹_›, by simp_all, by simp_all, ?_⟩
  split at h
  · exact .inl ⟨‹_›, h⟩
  · cases h; exact .inr ⟨by simp_all, rfl⟩

theorem asynchronous_next {inp : BoundaryInput} {s t : State} (h : asynchronous inp s = .next t) :
    t = s ∨ ∃ e u, enter e u.pc u = .next t ∧ (u = s ∨ u = { s with decPending := false }) := by
  unfold asynchronous at h
  split at h
  · exact .inr ⟨_, _, h, .inl rfl⟩
  split at h
  · split at h
    · exact .inr ⟨_, _, h, .inl rfl⟩
    · cases h
  split at h
  · exact .inr ⟨_, _, h, .inl rfl⟩
  split at h
  · exact .inr ⟨.decrementer, { s with decPending := false }, h, .inr rfl⟩
  · cases h; exact .inl rfl

theorem settle_next {i : Instr} {s t v : State} (h : settle i s t = .next v) :
    ∃ u w, complete i s t = .next u ∧ boundary (drawFree u) = .next w ∧ v = drawFree w := by
  obtain ⟨u, hu, h⟩ := andThen_next h
  obtain ⟨w, hw, h⟩ := andThen_next h
  cases h
  exact ⟨u, w, hu, hw, rfl⟩

end Sys2Proof.Machine
end

