-- ==== Sys2Proof/Laws/Exec.lean ====
section
/-! SUPPORT. What an instruction can do, said once: it completes with its own effect, or it takes an exception. -/

namespace Sys2Proof.Machine

open Sys2Proof.Config

/-- The instruction completes with its own effect, and what it checked first. -/
inductive Completes (s : State) : Instr → State → Prop where
  | mfspr {rD n r} (hr : readableSpr s.cfg n = some r) (hl : userMode s = false ∨ r.userLevel = true) :
      Completes s (.mfspr rD n) (advance (writeGpr s rD (readSpr s r)))
  | mtspr {n rS r} (hr : writableSpr s.cfg n = some r) (hl : userMode s = false ∨ r.userLevel = true)
      (hv : sprWriteRefusal s r (readGpr s rS) = none) :
      Completes s (.mtspr n rS) (advance (writeSpr s r (readGpr s rS)))
  | mftb {rD n v} (hv : readTbr s n = some v) : Completes s (.mftb rD n) (advance (writeGpr s rD v))
  | mfmsr {rD} (hu : userMode s = false) : Completes s (.mfmsr rD) (advance (writeGpr s rD (visibleMsr s)))
  | mtmsr {rS} (hu : userMode s = false) (hm : unsupportedMsr s.cfg (mtmsrValue s (readGpr s rS)) = none) :
      Completes s (.mtmsr rS) { writeMsr s (mtmsrValue s (readGpr s rS)) with pc := nextPc s }
  | mtmsrd {rS} (hw : is64 s.cfg = true) (hu : userMode s = false) (hm : unsupportedMsr s.cfg (readGpr s rS) = none) :
      Completes s (.mtmsrd rS) { writeMsr s (readGpr s rS) with pc := nextPc s }
  | mtsr {n rS} (hu : userMode s = false) : Completes s (.mtsr n rS) (advance (writeSr s n (lowWord (readGpr s rS))))
  | mtsrin {rS rB} (hu : userMode s = false) :
      Completes s (.mtsrin rS rB) (advance (writeSr s (srIndex (readGpr s rB)) (lowWord (readGpr s rS))))
  | mfsr {rD n} (hu : userMode s = false) : Completes s (.mfsr rD n) (advance (writeGpr s rD (readSr s n)))
  | mfsrin {rD rB} (hu : userMode s = false) :
      Completes s (.mfsrin rD rB) (advance (writeGpr s rD (readSr s (srIndex (readGpr s rB)))))
  | mcrf {d c} : Completes s (.mcrf d c) (advance (writeCrField s d (field4 s.cr c)))
  | mtcrf {m rS} : Completes s (.mtcrf m rS) (advance (writeCr s (merge s.cr (lowWord (readGpr s rS)) (fieldsMask m))))
  | mcrxr {d} :
      Completes s (.mcrxr d) (advance (writeXer (writeCrField s d (field4 (visibleXer s) 0)) (s.xer &&& 0x0FFFFFFF)))
  | fpscr {i t} (hi : (∃ d c, i = .mcrfs d c) ∨ (∃ d v rc, i = .mtfsfi d v rc) ∨ (∃ m r rc, i = .mtfsf m r rc) ∨
        (∃ b rc, i = .mtfsb0 b rc) ∨ (∃ b rc, i = .mtfsb1 b rc))
      (hf : t.fpscr &&& fpscrComputedBits = 0)
      (ht : t = { s with cr := t.cr, fpscr := t.fpscr, pc := nextPc s }) : Completes s i t
  | compare {i d t} (hi : (∃ l a b, i = .cmp d l a b) ∨ (∃ l a v, i = .cmpi d l a v) ∨ (∃ l a b, i = .cmpl d l a b) ∨
        (∃ l a v, i = .cmpli d l a v)) {v : BitVec 4} (ht : t = advance (writeCrField s d v)) : Completes s i t
  | b {li aa lk} : Completes s (.b li aa lk) (branchTo s s.ctr lk true (relativeTarget s aa (sextLI li)))
  | bc {bo bi bd aa lk} : Completes s (.bc bo bi bd aa lk)
      (branchTo s (branchCtr s bo) lk (branchTaken s bo bi) (relativeTarget s aa (sextBD bd)))
  | bclr {bo bi lk} : Completes s (.bclr bo bi lk)
      (branchTo s (branchCtr s bo) lk (branchTaken s bo bi) (registerTarget s s.lr))
  | bcctr {bo bi lk} : Completes s (.bcctr bo bi lk)
      (branchTo s s.ctr lk (branchCondOk s bo bi) (registerTarget s s.ctr))
  | rfi {t} (hw : is64 s.cfg = false ∨ hasBridge s.cfg = true) (hu : userMode s = false)
      (h : returnFromException 0x0000000087C0FFFF s = .next t) : Completes s .rfi t
  | rfid {t} (hw : is64 s.cfg = true) (hu : userMode s = false)
      (h : returnFromException 0xFFFFFFFF87C0FFFF s = .next t) : Completes s .rfid t
  | sync : Completes s .sync (advance (closeLookaside s))
  | isync : Completes s .isync (contextSync (advance s))
  | eciwx {rD rA rB v} : Completes s (.eciwx rD rA rB) (advance (writeGpr s rD v))
  | ecowx {rS rA rB rid pa v} : Completes s (.ecowx rS rA rB) (advance (deviceSend s rid pa v))
  | slb {i} (hi : (∃ rB, i = .slbie rB) ∨ i = .slbia) (hu : userMode s = false) : Completes s i (advance (openSlb s))
  | tlb {i} (hi : (∃ rB, i = .tlbie rB) ∨ i = .tlbia) (hu : userMode s = false) : Completes s i (advance (openTlb s))
  | addi {rD rA v} : Completes s (.addi rD rA v) (advance (writeGpr s rD (orZero s rA + sextImm v)))
  | lwz {rD rA d v} : Completes s (.lwz rD rA d) (advance (writeGpr s rD v))
  | lswxEmpty {rD rA rB v} : Completes s (.lswx rD rA rB) (advance (writeGpr s rD v))
  | lswx {rD rA rB ea n} : Completes s (.lswx rD rA rB) (advance (loadString s rD ea n))
  | stswx {rS rA rB ea n} : Completes s (.stswx rS rA rB) (advance (storeBytes s ea n (storedByte s rS)))

/-- The instruction took an exception: an entry from the state itself, or from the state with the DAR and DSISR that a
DSI or alignment exception writes. -/
def TookException (s t : State) : Prop :=
  ∃ e a u, msrILE s.msr = false ∧ t = entered e a u ∧
    (u = s ∨ (∃ k c ea, u = dsiRegisters k c ea s) ∨ (∃ ea, u = alignmentRegisters ea s))

theorem tookException_of_raise {e : Exception} {s t : State} (h : raise e s = .next t) : TookException s t :=
  ⟨e, s.pc, s, (raise_next h).1, (raise_next h).2, .inl rfl⟩

theorem tookException_of_dsi {k : Access} {c : Word32} {ea : Word} {s t : State}
    (h : raise .dsi (dsiRegisters k c ea s) = .next t) : TookException s t :=
  ⟨.dsi, s.pc, _, (raise_next h).1, (raise_next h).2, .inr (.inl ⟨k, c, ea, rfl⟩)⟩

theorem tookException_of_alignment {ea : Word} {s t : State}
    (h : raise .alignment (alignmentRegisters ea s) = .next t) : TookException s t :=
  ⟨.alignment, s.pc, _, (raise_next h).1, (raise_next h).2, .inr (.inr ⟨ea, rfl⟩)⟩

theorem completes_of_supervisorOnly {s t u : State} {i : Instr} (h : supervisorOnly s (.next u) = .next t)
    (hc : userMode s = false → Completes s i u) : Completes s i t ∨ TookException s t := by
  rcases supervisorOnly_next h with ⟨hu, hk⟩ | ⟨-, hr⟩
  · cases hk; exact .inl (hc hu)
  · exact .inr (tookException_of_raise hr)

theorem completes_of_segmentMove {s t u : State} {i : Instr} (h : segmentMove s (.next u) = .next t)
    (hc : userMode s = false → Completes s i u) : Completes s i t ∨ TookException s t := by
  rcases segmentMove_next h with ⟨-, hu, hk⟩ | ⟨c, hr⟩
  · cases hk; exact .inl (hc hu)
  · exact .inr (tookException_of_raise hr)

theorem completes_of_fpscr {s t u : State} {i : Instr} {rc : Bool} {f : Word32}
    (h : fpAvailable s (fpComplete rc (advance (setFpscr u f))) = .next t) (hu : u = { s with cr := u.cr })
    (hi : (∃ d c, i = .mcrfs d c) ∨ (∃ d v rc, i = .mtfsfi d v rc) ∨ (∃ m r rc, i = .mtfsf m r rc) ∨
      (∃ b rc, i = .mtfsb0 b rc) ∨ (∃ b rc, i = .mtfsb1 b rc)) : Completes s i t ∨ TookException s t := by
  have hz : (f &&& ~~~fpscrComputedBits) &&& fpscrComputedBits = 0 := by
    rw [BitVec.and_assoc]; simp [fpscrComputedBits]
  rcases fpAvailable_next h with ⟨-, hk⟩ | ⟨-, hr⟩
  · obtain ⟨-, rfl⟩ := fpComplete_next hk
    refine .inl (.fpscr hi ?_ ?_)
    · cases rc <;> simpa using hz
    · rw [hu]; cases rc <;> rfl
  · exact .inr (tookException_of_raise hr)

/-- Every next state of `exec`: the instruction completed, or took an exception. -/
theorem exec_next {i : Instr} {s t : State} (h : exec i s = .next t) : Completes s i t ∨ TookException s t := by
  cases i with
  | mfspr rD n =>
    simp only [exec, execMfspr] at h
    split at h
    · obtain ⟨c, -, hr⟩ := undefinedTreatment_next h; exact .inr (tookException_of_raise hr)
    · split at h
      · exact .inr (tookException_of_raise h)
      · cases h; exact .inl (.mfspr ‹_› (by cases hu : userMode s <;> simp_all))
  | mtspr n rS =>
    simp only [exec, execMtspr] at h
    split at h
    · obtain ⟨c, -, hr⟩ := undefinedTreatment_next h; exact .inr (tookException_of_raise hr)
    · split at h
      · exact .inr (tookException_of_raise h)
      · split at h
        · cases h
        · cases h; exact .inl (.mtspr ‹_› (by cases hu : userMode s <;> simp_all) ‹_›)
  | mftb rD n =>
    simp only [exec, execMftb] at h
    split at h
    · obtain ⟨c, -, hr⟩ := undefinedTreatment_next h; exact .inr (tookException_of_raise hr)
    · cases h; exact .inl (.mftb ‹_›)
  | mfmsr rD => exact completes_of_supervisorOnly h .mfmsr
  | mtmsr rS =>
    rcases supervisorOnly_next (presentIf_next h).2 with ⟨hu, hk⟩ | ⟨-, hr⟩
    · obtain ⟨hm, rfl⟩ := moveToMsr_next hk; exact .inl (.mtmsr hu hm)
    · exact .inr (tookException_of_raise hr)
  | mtmsrd rS =>
    rcases supervisorOnly_next (presentIf_next h).2 with ⟨hu, hk⟩ | ⟨-, hr⟩
    · obtain ⟨hm, rfl⟩ := moveToMsr_next hk; exact .inl (.mtmsrd (presentIf_next h).1 hu hm)
    · exact .inr (tookException_of_raise hr)
  | mtsr n rS => exact completes_of_segmentMove h .mtsr
  | mtsrin rS rB => exact completes_of_segmentMove h .mtsrin
  | mfsr rD n => exact completes_of_segmentMove h .mfsr
  | mfsrin rD rB => exact completes_of_segmentMove h .mfsrin
  | mcrf d c => cases h; exact .inl .mcrf
  | mtcrf m rS => cases h; exact .inl .mtcrf
  | mcrxr d => cases h; exact .inl .mcrxr
  | mcrfs d c => exact completes_of_fpscr h rfl (by simp)
  | mtfsfi d v rc => exact completes_of_fpscr h rfl (by simp)
  | mtfsf m r rc => exact completes_of_fpscr h rfl (by simp)
  | mtfsb0 b rc => exact completes_of_fpscr h rfl (by simp)
  | mtfsb1 b rc => exact completes_of_fpscr h rfl (by simp)
  | cmp d l a b => exact .inl (.compare (by simp) (compareInto_next h).2)
  | cmpi d l a v => exact .inl (.compare (by simp) (compareInto_next h).2)
  | cmpl d l a b => exact .inl (.compare (by simp) (compareInto_next h).2)
  | cmpli d l a v => exact .inl (.compare (by simp) (compareInto_next h).2)
  | b li aa lk => cases h; exact .inl .b
  | bc bo bi bd aa lk => cases h; exact .inl .bc
  | bclr bo bi lk => cases h; exact .inl .bclr
  | bcctr bo bi lk =>
    simp only [exec, execBcctr] at h
    split at h
    · cases h; exact .inl .bcctr
    · cases h
  | sc =>
    obtain ⟨hi, ht⟩ := enter_next h
    exact .inr ⟨_, _, s, hi, ht, .inl rfl⟩
  | rfi =>
    obtain ⟨hw, hk⟩ := presentIf_next h
    rcases supervisorOnly_next hk with ⟨hu, hk⟩ | ⟨-, hr⟩
    · exact .inl (.rfi (by simpa using hw) hu hk)
    · exact .inr (tookException_of_raise hr)
  | rfid =>
    obtain ⟨hw, hk⟩ := presentIf_next h
    rcases supervisorOnly_next hk with ⟨hu, hk⟩ | ⟨-, hr⟩
    · exact .inl (.rfid hw hu hk)
    · exact .inr (tookException_of_raise hr)
  | sync => cases h; exact .inl .sync
  | isync => cases h; exact .inl .isync
  | eciwx rD rA rB =>
    rcases externalControl_next (presentIf_next h).2 with ⟨c, hr⟩ | ⟨-, -, -, -, hk⟩
    · exact .inr (tookException_of_dsi hr)
    · cases hk; exact .inl .eciwx
  | ecowx rS rA rB =>
    rcases externalControl_next (presentIf_next h).2 with ⟨c, hr⟩ | ⟨-, -, -, -, hk⟩
    · exact .inr (tookException_of_dsi hr)
    · cases hk; exact .inl .ecowx
  | slbie rB => exact completes_of_supervisorOnly (presentIf_next h).2 (.slb (.inl ⟨rB, rfl⟩))
  | slbia => exact completes_of_supervisorOnly (presentIf_next h).2 (.slb (.inr rfl))
  | tlbie rB => exact completes_of_supervisorOnly h (.tlb (.inl ⟨rB, rfl⟩))
  | tlbia => exact completes_of_supervisorOnly h (.tlb (.inr rfl))
  | addi rD rA v => cases h; exact .inl .addi
  | lwz rD rA d =>
    rcases checkAlignment_next h with hk | hr
    · rcases dataAccess_next hk with ⟨-, hr⟩ | ⟨-, -, hk⟩
      · exact .inr (tookException_of_dsi hr)
      · cases hk; exact .inl .lwz
    · exact .inr (tookException_of_alignment hr)
  | lswx rD rA rB =>
    simp only [exec, execLswx] at h
    split at h
    · cases h
    split at h
    · cases h; exact .inl .lswxEmpty
    · rcases dataAccess_next h with ⟨-, hr⟩ | ⟨-, -, hk⟩
      · exact .inr (tookException_of_dsi hr)
      · cases hk; exact .inl .lswx
  | stswx rS rA rB =>
    rcases dataAccess_next h with ⟨-, hr⟩ | ⟨-, -, hk⟩
    · exact .inr (tookException_of_dsi hr)
    · cases hk; exact .inl .stswx

/-- What taking an exception can change: the registers of entry, and the DAR and DSISR. -/
theorem tookException_frame {s t : State} (h : TookException s t) :
    t = { s with
      srr0 := t.srr0, srr1 := t.srr1, msr := t.msr, pc := t.pc, windows := t.windows, storedSince := t.storedSince,
      excCount := s.excCount + 1, dar := t.dar, dsisr := t.dsisr } := by
  obtain ⟨e, a, u, hi, rfl, rfl | ⟨k, c, ea, rfl⟩ | ⟨ea, rfl⟩⟩ := h <;> rw [entered_eq] <;> rfl

theorem tookException_excCount {s t : State} (h : TookException s t) : t.excCount ≠ s.excCount := by rw [tookException_frame h]; simp

/-- What **mtspr** can change: SPRs, the decrementer's request and windows. -/
theorem writeSpr_frame (s : State) (r : Spr) (v : Word) : writeSpr s r v = {s with
  xer := (writeSpr s r v).xer, lr := (writeSpr s r v).lr, ctr := (writeSpr s r v).ctr,
  dsisr := (writeSpr s r v).dsisr, dar := (writeSpr s r v).dar, dec := (writeSpr s r v).dec,
  decPending := (writeSpr s r v).decPending, sdr1 := (writeSpr s r v).sdr1, srr0 := (writeSpr s r v).srr0,
  srr1 := (writeSpr s r v).srr1, sprg := (writeSpr s r v).sprg, asr := (writeSpr s r v).asr, ear := (writeSpr s r v).ear,
  tb := (writeSpr s r v).tb, ibat := (writeSpr s r v).ibat, dbat := (writeSpr s r v).dbat, dabr := (writeSpr s r v).dabr,
  fpecr := (writeSpr s r v).fpecr, pir := (writeSpr s r v).pir, windows := (writeSpr s r v).windows } := by
  cases r <;> rfl

end Sys2Proof.Machine
end

