-- ==== Sys2Proof/Laws/Memory.lean ====
section
/-! SUPPORT. Reads after writes, and the canonical form of memory. -/

namespace Sys2Proof.Machine

/-- The canonical form: addresses strictly rising, and no entry that an unlisted address would read as anyway. -/
theorem memory_wf_iff (m : Memory) :
    m.wf = true ↔ m.Pairwise (fun c d => c.1 < d.1) ∧ ∀ c ∈ m, c.2 ≠ memDefault := by
  induction m with
  | nil => simp [Memory.wf]
  | cons c m ih =>
    obtain ⟨a, v⟩ := c
    cases m with
    | nil => simp [Memory.wf]
    | cons d m =>
      obtain ⟨b, w⟩ := d
      simp only [Memory.wf, Bool.and_eq_true, bne_iff_ne, decide_eq_true_eq] at ih ⊢
      rw [ih, List.pairwise_cons (a := (a, v))]
      simp only [List.mem_cons, forall_eq_or_imp, List.pairwise_cons]
      constructor
      · rintro ⟨⟨hv, hab⟩, ⟨hb, hp⟩, hw, hm⟩
        exact ⟨⟨⟨hab, fun c hc => hab.trans (hb c hc)⟩, hb, hp⟩, hv, hw, hm⟩
      · rintro ⟨⟨⟨hab, -⟩, hb, hp⟩, hv, hw, hm⟩
        exact ⟨⟨hv, hab⟩, ⟨hb, hp⟩, hw, hm⟩

/-- What a write leaves in the list: entries that were there, and the new one unless it is the default. -/
theorem mem_memWrite {m : Memory} {a : Nat} {v : Byte} {c : Host.Cell} (h : c ∈ memWrite m a v) :
    c ∈ m ∨ (c = (a, v) ∧ v ≠ memDefault) := by
  induction m with
  | nil => by_cases hv : v = memDefault <;> simp_all [memWrite]
  | cons d m ih =>
    obtain ⟨b, w⟩ := d
    simp only [memWrite] at h
    split_ifs at h <;> simp_all <;> tauto

/-- A write keeps the canonical form. -/
theorem memWrite_wf {m : Memory} (a : Nat) (v : Byte) (h : m.wf = true) : (memWrite m a v).wf = true := by
  rw [memory_wf_iff] at h ⊢
  refine ⟨?_, fun c hc => ?_⟩
  · induction m with
    | nil => by_cases hv : v = memDefault <;> simp [memWrite, hv]
    | cons d m ih =>
      obtain ⟨b, w⟩ := d
      obtain ⟨hp, hd⟩ := h
      rw [List.pairwise_cons] at hp
      have ih := ih ⟨hp.2, fun c hc => hd c (List.mem_cons_of_mem _ hc)⟩
      simp only [memWrite]
      split_ifs with h1 h2 h3 h4
      · exact List.pairwise_cons.2 hp
      · refine List.pairwise_cons.2 ⟨?_, List.pairwise_cons.2 hp⟩
        intro c hc
        rcases List.mem_cons.1 hc with rfl | hc
        · exact h1
        · exact h1.trans (hp.1 c hc)
      · exact hp.2
      · subst h3; exact List.pairwise_cons.2 hp
      · refine List.pairwise_cons.2 ⟨fun c hc => ?_, ih⟩
        rcases mem_memWrite hc with hc | ⟨rfl, -⟩
        · exact hp.1 c hc
        · show b < a; omega
  · rcases mem_memWrite hc with hc | ⟨rfl, hv⟩
    · exact h.2 c hc
    · exact hv

theorem memRead_of_not_mem {m : Memory} {a : Nat} (h : ∀ c ∈ m, c.1 ≠ a) : memRead m a = memDefault := by
  induction m with
  | nil => rfl
  | cons d m ih =>
    obtain ⟨b, w⟩ := d
    have hb : a ≠ b := fun e => h (b, w) (List.mem_cons_self ..) e.symm
    simp [memRead, hb, ih fun c hc => h c (List.mem_cons_of_mem _ hc)]

/-- A read of the address written gives the byte written. -/
theorem memRead_memWrite_same {m : Memory} (a : Nat) (v : Byte) (h : m.wf = true) :
    memRead (memWrite m a v) a = v := by
  rw [memory_wf_iff] at h
  induction m with
  | nil => by_cases hv : v = memDefault <;> simp [memWrite, memRead, hv]
  | cons d m ih =>
    obtain ⟨b, w⟩ := d
    obtain ⟨hp, hd⟩ := h
    rw [List.pairwise_cons] at hp
    have ih := ih ⟨hp.2, fun c hc => hd c (List.mem_cons_of_mem _ hc)⟩
    simp only [memWrite]
    split_ifs with h1 h2 h3 h4
    · subst h2
      refine memRead_of_not_mem fun c hc => ?_
      rcases List.mem_cons.1 hc with rfl | hc
      · exact h1.ne'
      · exact (h1.trans (hp.1 c hc)).ne'
    · simp [memRead]
    · subst h3 h4
      exact memRead_of_not_mem fun c hc => (hp.1 c hc).ne'
    · simp [memRead]
    · simpa [memRead, h3] using ih

/-- A write leaves every other address alone. -/
theorem memRead_memWrite_other (m : Memory) {a b : Nat} (v : Byte) (h : b ≠ a) :
    memRead (memWrite m a v) b = memRead m b := by
  induction m with
  | nil => by_cases hv : v = memDefault <;> simp [memWrite, memRead, hv, h]
  | cons d m ih =>
    obtain ⟨c, w⟩ := d
    simp only [memWrite]
    split_ifs with h1 h2 h3 h4
    · rfl
    · simp [memRead, h]
    · subst h3; simp [memRead, h]
    · subst h3; simp [memRead, h]
    · simp only [memRead, ih]

theorem memWriteAll_wf {m : Memory} (cs : List (Nat × Byte)) (h : m.wf = true) : (memWriteAll m cs).wf = true := by
  induction cs generalizing m with
  | nil => exact h
  | cons c cs ih => exact ih (memWrite_wf c.1 c.2 h)

/-- Writes leave every address that is none of theirs alone. -/
theorem memRead_memWriteAll_other (m : Memory) (cs : List (Nat × Byte)) {a : Nat} (h : ∀ c ∈ cs, c.1 ≠ a) :
    memRead (memWriteAll m cs) a = memRead m a := by
  induction cs generalizing m with
  | nil => rfl
  | cons c cs ih =>
    rw [memWriteAll, ih _ fun d hd => h d (List.mem_cons_of_mem _ hd)]
    exact memRead_memWrite_other m c.2 (h c (List.mem_cons_self ..)).symm

/-- Writes to different addresses: a read of one gives its byte. -/
theorem memRead_memWriteAll_mem {m : Memory} {cs : List (Nat × Byte)} (hm : m.wf = true)
    (hd : cs.Pairwise (fun c d => c.1 ≠ d.1)) {c : Nat × Byte} (hc : c ∈ cs) : memRead (memWriteAll m cs) c.1 = c.2 := by
  induction cs generalizing m with
  | nil => simp at hc
  | cons d cs ih =>
    rw [List.pairwise_cons] at hd
    rw [memWriteAll]
    rcases List.mem_cons.1 hc with rfl | hc
    · rw [memRead_memWriteAll_other _ _ fun e he => (hd.1 e he).symm]
      exact memRead_memWrite_same _ _ hm
    · exact ih (memWrite_wf _ _ hm) hd.2 hc

/-- The memory of the reset state has the canonical form. -/
theorem reset_memory_wf : State.reset.mem.wf = true := rfl

end Sys2Proof.Machine
end

