-- ==== Sys2Proof/Laws/LoadStore.lean ====
section
/-! SUPPORT. Addresses, byte accesses and strings. -/

namespace Sys2Proof.Machine

open Sys2Proof.Config

theorem readGpr_advance_writeGpr (s : State) (r : GprNum) (v : Word) :
    readGpr (advance (writeGpr s r v)) r = toWidth s.cfg v := readGpr_writeGpr_same s r v

/-- The bytes of an access of at most 128 bytes lie at different addresses. -/
theorem byteAddr_injective {s : State} {ea : Word} {j k : Nat} (hj : j < 128) (hk : k < 128)
    (h : byteAddr s ea j = byteAddr s ea k) : j = k := by
  have h' : low32 (ea + BitVec.ofNat 64 j) = low32 (ea + BitVec.ofNat 64 k) := by
    have := BitVec.eq_of_toNat_eq h
    unfold effective at this
    split at this
    · rw [this]
    · exact this
  have h2 := congrArg BitVec.toNat h'
  simp only [low32_toNat, BitVec.toNat_add, BitVec.toNat_ofNat] at h2
  omega

theorem xerByteCount_lt (x : Word32) : xerByteCount x < 128 := by
  have : (x &&& 0x7F).toNat ≤ 127 := by rw [BitVec.toNat_and]; exact Nat.and_le_right
  exact Nat.lt_succ_of_le this

theorem accessRefusal_none {s : State} {ea : Word} {n : Nat} (h1 : msrDR (contextMsr s) = false)
    (h2 : msrLE (contextMsr s) = false) (h3 : ∀ k < n, mapped s.cfg (byteAddr s ea k) = true) :
    accessRefusal s ea n = none := by
  simp only [accessRefusal, h1, h2, Bool.false_eq_true, if_false, ite_eq_left_iff]
  intro _
  have : (List.range n).all (fun k => mapped s.cfg (byteAddr s ea k)) = true :=
    List.all_eq_true.2 fun k hk => h3 k (List.mem_range.1 hk)
  simp [this]

/-- What a string store leaves in memory: each of its bytes at its own address (R310). -/
theorem memRead_storeBytes_same {s : State} {ea : Word} {n k : Nat} (f : Nat → Byte) (hn : n ≤ 128) (hk : k < n)
    (hw : s.mem.wf = true) : memRead (storeBytes s ea n f).mem (byteAddr s ea k) = f k := by
  refine memRead_memWriteAll_mem (c := (byteAddr s ea k, f k)) hw ?_ (List.mem_map.2 ⟨k, List.mem_range.2 hk, rfl⟩)
  rw [List.pairwise_map]
  refine List.Pairwise.imp_of_mem (fun {i j} hi hj hne h => ?_) (List.nodup_range (n := n))
  have hi := List.mem_range.1 hi
  have hj := List.mem_range.1 hj
  exact hne (byteAddr_injective (by omega) (by omega) h)

/-- Every other byte reads as before. -/
theorem memRead_storeBytes_other {s : State} {ea : Word} {n a : Nat} (f : Nat → Byte)
    (h : ∀ k < n, a ≠ byteAddr s ea k) : memRead (storeBytes s ea n f).mem a = memRead s.mem a := by
  refine memRead_memWriteAll_other _ _ fun c hc => ?_
  obtain ⟨k, hk, rfl⟩ := List.mem_map.1 hc
  exact (h k (List.mem_range.1 hk)).symm

/-- The registers of a string are different ones: a string takes at most 32. -/
theorem stringReg_injective {r : GprNum} {j k : Nat} (hj : j < 32) (hk : k < 32) (h : stringReg r j = stringReg r k) :
    j = k := by
  have := congrArg BitVec.toNat h
  simp only [stringReg, BitVec.toNat_add, BitVec.toNat_ofNat] at this
  omega

/-- The first `m` registers of a string, loaded. -/
theorem readGpr_foldl_other (r : GprNum) (f : Nat → Word) (m : Nat) (s : State) {q : GprNum}
    (h : ∀ j < m, q ≠ stringReg r j) :
    readGpr ((List.range m).foldl (fun t j => writeGpr t (stringReg r j) (f j)) s) q = readGpr s q := by
  induction m with
  | zero => rfl
  | succ m ih =>
    rw [List.range_succ, List.foldl_append, List.foldl_cons, List.foldl_nil,
      readGpr_writeGpr_other _ _ (h m (Nat.lt_succ_self m)), ih fun j hj => h j (by omega)]

theorem cfg_foldl_writeGpr (r : GprNum) (f : Nat → Word) (m : Nat) (s : State) :
    ((List.range m).foldl (fun t j => writeGpr t (stringReg r j) (f j)) s).cfg = s.cfg := by
  induction m with
  | zero => rfl
  | succ m ih => rw [List.range_succ, List.foldl_append, List.foldl_cons, List.foldl_nil, writeGpr_cfg, ih]

theorem readGpr_foldl_same (r : GprNum) (f : Nat → Word) {m : Nat} (hm : m ≤ 32) (s : State) {j : Nat} (hj : j < m) :
    readGpr ((List.range m).foldl (fun t j => writeGpr t (stringReg r j) (f j)) s) (stringReg r j)
      = toWidth s.cfg (f j) := by
  induction m with
  | zero => omega
  | succ m ih =>
    rw [List.range_succ, List.foldl_append, List.foldl_cons, List.foldl_nil]
    by_cases h : j = m
    · subst h; rw [readGpr_writeGpr_same, cfg_foldl_writeGpr]
    · have hne : stringReg r j ≠ stringReg r m := fun e => h (stringReg_injective (by omega) (by omega) e)
      rw [readGpr_writeGpr_other _ _ hne, ih (by omega) (by omega)]

/-- The `j`-th register of a string that is loaded (R308). -/
theorem readGpr_loadString_same (s : State) (rD : GprNum) (ea : Word) {n j : Nat} (hn : n < 128)
    (hj : j < stringRegs n) : readGpr (loadString s rD ea n) (stringReg rD j) = zextWord (stringWord s ea n j) := by
  rw [loadString, readGpr_foldl_same _ _ (by unfold stringRegs at *; omega) _ hj, toWidth_zextWord]

/-- A register that is none of the string's stays. -/
theorem readGpr_loadString_other (s : State) (rD : GprNum) (ea : Word) {n : Nat} {q : GprNum}
    (h : ∀ j < stringRegs n, q ≠ stringReg rD j) : readGpr (loadString s rD ea n) q = readGpr s q :=
  readGpr_foldl_other rD _ _ s h

end Sys2Proof.Machine
end

