-- ==== Sys2Proof/Laws/FloatTransfer.lean ====
section
/-! SUPPORT. What the floating-point transfers can do, and the flags by mode. -/

namespace Sys2Proof.Machine

open Sys2Proof.Config

/-- What an undefined status leaves: FPSCR and CR alone. -/
theorem undefinedSingleStatus_eq (rc : Bool) (s : State) :
    undefinedSingleStatus rc s = { s with
      cr := (undefinedSingleStatus rc s).cr
      fpscr := merge s.fpscr (lowWord (freeValue .singleStatus s)) fpscrStatusBits &&& ~~~fpscrComputedBits } := by
  cases rc <;> rfl

/-- A floating-point load or store of `n` bytes: unavailable, a breakpoint match, or its own effect `k`. -/
theorem floatAccess_next {kind : Access} {ea : Word} {n : Nat} {s t : State} {k : Out}
    (h : fpAvailable s (dataAccess kind ea n s k) = .next t) :
    raise .fpUnavailable s = .next t ∨ raise .dsi (dsiRegisters kind dsisrDabr ea s) = .next t ∨
      (msrFP (contextMsr s) = true ∧ dabrMatch s kind ea n = false ∧ accessRefusal s ea n = none ∧ k = .next t) := by
  rcases fpAvailable_next h with ⟨hf, h⟩ | ⟨-, h⟩
  · rcases dataAccess_next h with ⟨-, h⟩ | ⟨hm, ha, h⟩
    · exact .inr (.inl h)
    · exact .inr (.inr ⟨hf, hm, ha, h⟩)
  · exact .inl h

/-- CR0, OV and CA are recorded into the CR and the XER alone. -/
theorem recordCr0_eq (s : State) (v : Word) : recordCr0 s v = { s with cr := (recordCr0 s v).cr } := rfl
theorem recordCr0Undefined_eq (s : State) :
    recordCr0Undefined s = { s with cr := (recordCr0Undefined s).cr } := rfl
theorem recordCr0Word_cases (s : State) (v : Word) :
    (mode64 s = true ∧ recordCr0Word s v = recordCr0Undefined s) ∨
      (mode64 s = false ∧ recordCr0Word s v = recordCr0 s v) := by
  cases h : mode64 s
  · exact .inr ⟨rfl, if_neg (by simp [h])⟩
  · exact .inl ⟨rfl, if_pos h⟩
theorem recordCa_eq (s : State) (a b : Word) (c : Bool) :
    recordCa s a b c = { s with xer := writeCA s.xer (carryOf s a b c) } := rfl
theorem recordOv_eq (s : State) (a b : Word) (c : Bool) :
    recordOv s a b c = { s with xer := writeOV s.xer (overflowOf s a b c) } := rfl

/-- A window that a write opens, flag by flag. -/
theorem getLsbD_openAt {n : Nat} (w : BitVec n) {i j : Nat} (c : Bool) (hj : j < n) :
    (openAt w i c).getLsbD j = (w.getLsbD j || (c && decide (i = j))) := by
  cases c
  · simp [openAt]
  · by_cases h : i = j
    · subst h; simp [openAt, hj]
    · simp [openAt, BitVec.getLsbD_twoPow, h]

end Sys2Proof.Machine
end

