-- ==== Sys2Proof/Laws/PerInstr.lean ====
section
/-! SUPPORT. The family RowWord: the word of an instruction is a word of its own row of the opcode table (R157, R172). -/

namespace Sys2Proof.Laws

open Sys2Proof.Decode

/-- Some row of the table has the instruction's word among its words: the row's match stands under the row's mask. -/
def RowWord.Statement (i : Instr) : Prop := ∃ r ∈ table, encode i &&& r.mask = r.pat

theorem rowWord_of_row {i : Instr} (k : Nat) (hk : k < table.length) (h : encode i &&& (table[k]).mask = (table[k]).pat) :
    RowWord.Statement i := ⟨table[k], List.getElem_mem hk, h⟩

theorem RowWord.mfspr (rD : GprNum) (spr : SprNum) : RowWord.Statement (.mfspr rD spr) := by
  refine rowWord_of_row 0 (by decide) ?_
  show encode _ &&& 0xFC0007FF#32 = 0x7C0002A6#32
  simp only [encode, putSpr, or_and_mask]
  repeat rw [put_and _ _ (by decide)]
  decide

theorem RowWord.mtspr (spr : SprNum) (rS : GprNum) : RowWord.Statement (.mtspr spr rS) := by
  refine rowWord_of_row 1 (by decide) ?_
  show encode _ &&& 0xFC0007FF#32 = 0x7C0003A6#32
  simp only [encode, putSpr, or_and_mask]
  repeat rw [put_and _ _ (by decide)]
  decide

theorem RowWord.mftb (rD : GprNum) (tbr : SprNum) : RowWord.Statement (.mftb rD tbr) := by
  refine rowWord_of_row 2 (by decide) ?_
  show encode _ &&& 0xFC0007FF#32 = 0x7C0002E6#32
  simp only [encode, putSpr, or_and_mask]
  repeat rw [put_and _ _ (by decide)]
  decide

theorem RowWord.mfmsr (rD : GprNum) : RowWord.Statement (.mfmsr rD) := by
  refine rowWord_of_row 3 (by decide) ?_
  show encode _ &&& 0xFC1FFFFF#32 = 0x7C0000A6#32
  simp only [encode, or_and_mask]
  repeat rw [put_and _ _ (by decide)]
  decide

theorem RowWord.mtmsr (rS : GprNum) : RowWord.Statement (.mtmsr rS) := by
  refine rowWord_of_row 4 (by decide) ?_
  show encode _ &&& 0xFC1FFFFF#32 = 0x7C000124#32
  simp only [encode, or_and_mask]
  repeat rw [put_and _ _ (by decide)]
  decide

theorem RowWord.mtmsrd (rS : GprNum) : RowWord.Statement (.mtmsrd rS) := by
  refine rowWord_of_row 5 (by decide) ?_
  show encode _ &&& 0xFC1FFFFF#32 = 0x7C000164#32
  simp only [encode, or_and_mask]
  repeat rw [put_and _ _ (by decide)]
  decide

theorem RowWord.mtsr (sr : SrNum) (rS : GprNum) : RowWord.Statement (.mtsr sr rS) := by
  refine rowWord_of_row 6 (by decide) ?_
  show encode _ &&& 0xFC10FFFF#32 = 0x7C0001A4#32
  simp only [encode, or_and_mask]
  repeat rw [put_and _ _ (by decide)]
  decide

theorem RowWord.mtsrin (rS rB : GprNum) : RowWord.Statement (.mtsrin rS rB) := by
  refine rowWord_of_row 7 (by decide) ?_
  show encode _ &&& 0xFC1F07FF#32 = 0x7C0001E4#32
  simp only [encode, or_and_mask]
  repeat rw [put_and _ _ (by decide)]
  decide

theorem RowWord.mfsr (rD : GprNum) (sr : SrNum) : RowWord.Statement (.mfsr rD sr) := by
  refine rowWord_of_row 8 (by decide) ?_
  show encode _ &&& 0xFC10FFFF#32 = 0x7C0004A6#32
  simp only [encode, or_and_mask]
  repeat rw [put_and _ _ (by decide)]
  decide

theorem RowWord.mfsrin (rD rB : GprNum) : RowWord.Statement (.mfsrin rD rB) := by
  refine rowWord_of_row 9 (by decide) ?_
  show encode _ &&& 0xFC1F07FF#32 = 0x7C000526#32
  simp only [encode, or_and_mask]
  repeat rw [put_and _ _ (by decide)]
  decide

theorem RowWord.mcrf (crfD crfS : FieldNum) : RowWord.Statement (.mcrf crfD crfS) := by
  refine rowWord_of_row 10 (by decide) ?_
  show encode _ &&& 0xFC63FFFF#32 = 0x4C000000#32
  simp only [encode, or_and_mask]
  repeat rw [put_and _ _ (by decide)]
  decide

theorem RowWord.mtcrf (crm : BitVec 8) (rS : GprNum) : RowWord.Statement (.mtcrf crm rS) := by
  refine rowWord_of_row 11 (by decide) ?_
  show encode _ &&& 0xFC100FFF#32 = 0x7C000120#32
  simp only [encode, or_and_mask]
  repeat rw [put_and _ _ (by decide)]
  decide

theorem RowWord.mcrxr (crfD : FieldNum) : RowWord.Statement (.mcrxr crfD) := by
  refine rowWord_of_row 12 (by decide) ?_
  show encode _ &&& 0xFC7FFFFF#32 = 0x7C000400#32
  simp only [encode, or_and_mask]
  repeat rw [put_and _ _ (by decide)]
  decide

theorem RowWord.mcrfs (crfD crfS : FieldNum) : RowWord.Statement (.mcrfs crfD crfS) := by
  refine rowWord_of_row 13 (by decide) ?_
  show encode _ &&& 0xFC63FFFF#32 = 0xFC000080#32
  simp only [encode, or_and_mask]
  repeat rw [put_and _ _ (by decide)]
  decide

theorem RowWord.mtfsfi (crfD : FieldNum) (imm : BitVec 4) (rc : Bool) : RowWord.Statement (.mtfsfi crfD imm rc) := by
  refine rowWord_of_row 14 (by decide) ?_
  show encode _ &&& 0xFC7F0FFE#32 = 0xFC00010C#32
  simp only [encode, putBit, or_and_mask]
  repeat rw [put_and _ _ (by decide)]
  decide

theorem RowWord.mtfsf (fm : BitVec 8) (frB : FprNum) (rc : Bool) : RowWord.Statement (.mtfsf fm frB rc) := by
  refine rowWord_of_row 15 (by decide) ?_
  show encode _ &&& 0xFE0107FE#32 = 0xFC00058E#32
  simp only [encode, putBit, or_and_mask]
  repeat rw [put_and _ _ (by decide)]
  decide

theorem RowWord.mtfsb0 (crbD : BitVec 5) (rc : Bool) : RowWord.Statement (.mtfsb0 crbD rc) := by
  refine rowWord_of_row 16 (by decide) ?_
  show encode _ &&& 0xFC1FFFFE#32 = 0xFC00008C#32
  simp only [encode, putBit, or_and_mask]
  repeat rw [put_and _ _ (by decide)]
  decide

theorem RowWord.mtfsb1 (crbD : BitVec 5) (rc : Bool) : RowWord.Statement (.mtfsb1 crbD rc) := by
  refine rowWord_of_row 17 (by decide) ?_
  show encode _ &&& 0xFC1FFFFE#32 = 0xFC00004C#32
  simp only [encode, putBit, or_and_mask]
  repeat rw [put_and _ _ (by decide)]
  decide

theorem RowWord.cmp (crfD : FieldNum) (l : Bool) (rA rB : GprNum) : RowWord.Statement (.cmp crfD l rA rB) := by
  refine rowWord_of_row 18 (by decide) ?_
  show encode _ &&& 0xFC4007FF#32 = 0x7C000000#32
  simp only [encode, putBit, or_and_mask]
  repeat rw [put_and _ _ (by decide)]
  decide

theorem RowWord.cmpi (crfD : FieldNum) (l : Bool) (rA : GprNum) (simm : BitVec 16) : RowWord.Statement (.cmpi crfD l rA simm) := by
  refine rowWord_of_row 19 (by decide) ?_
  show encode _ &&& 0xFC400000#32 = 0x2C000000#32
  simp only [encode, putBit, or_and_mask]
  repeat rw [put_and _ _ (by decide)]
  decide

theorem RowWord.cmpl (crfD : FieldNum) (l : Bool) (rA rB : GprNum) : RowWord.Statement (.cmpl crfD l rA rB) := by
  refine rowWord_of_row 20 (by decide) ?_
  show encode _ &&& 0xFC4007FF#32 = 0x7C000040#32
  simp only [encode, putBit, or_and_mask]
  repeat rw [put_and _ _ (by decide)]
  decide

theorem RowWord.cmpli (crfD : FieldNum) (l : Bool) (rA : GprNum) (uimm : BitVec 16) : RowWord.Statement (.cmpli crfD l rA uimm) := by
  refine rowWord_of_row 21 (by decide) ?_
  show encode _ &&& 0xFC400000#32 = 0x28000000#32
  simp only [encode, putBit, or_and_mask]
  repeat rw [put_and _ _ (by decide)]
  decide

theorem RowWord.b (li : BitVec 24) (aa lk : Bool) : RowWord.Statement (.b li aa lk) := by
  refine rowWord_of_row 22 (by decide) ?_
  show encode _ &&& 0xFC000000#32 = 0x48000000#32
  simp only [encode, putBit, or_and_mask]
  repeat rw [put_and _ _ (by decide)]
  decide

theorem RowWord.bc (bo bi : BitVec 5) (bd : BitVec 14) (aa lk : Bool) : RowWord.Statement (.bc bo bi bd aa lk) := by
  refine rowWord_of_row 23 (by decide) ?_
  show encode _ &&& 0xFC000000#32 = 0x40000000#32
  simp only [encode, putBit, or_and_mask]
  repeat rw [put_and _ _ (by decide)]
  decide

theorem RowWord.bclr (bo bi : BitVec 5) (lk : Bool) : RowWord.Statement (.bclr bo bi lk) := by
  refine rowWord_of_row 24 (by decide) ?_
  show encode _ &&& 0xFC00FFFE#32 = 0x4C000020#32
  simp only [encode, putBit, or_and_mask]
  repeat rw [put_and _ _ (by decide)]
  decide

theorem RowWord.bcctr (bo bi : BitVec 5) (lk : Bool) : RowWord.Statement (.bcctr bo bi lk) := by
  refine rowWord_of_row 25 (by decide) ?_
  show encode _ &&& 0xFC00FFFE#32 = 0x4C000420#32
  simp only [encode, putBit, or_and_mask]
  repeat rw [put_and _ _ (by decide)]
  decide

theorem RowWord.sc : RowWord.Statement (.sc) := by
  refine rowWord_of_row 26 (by decide) ?_
  show encode _ &&& 0xFFFFFFFF#32 = 0x44000002#32
  decide

theorem RowWord.rfi : RowWord.Statement (.rfi) := by
  refine rowWord_of_row 27 (by decide) ?_
  show encode _ &&& 0xFFFFFFFF#32 = 0x4C000064#32
  decide

theorem RowWord.rfid : RowWord.Statement (.rfid) := by
  refine rowWord_of_row 28 (by decide) ?_
  show encode _ &&& 0xFFFFFFFF#32 = 0x4C000024#32
  decide

theorem RowWord.sync : RowWord.Statement (.sync) := by
  refine rowWord_of_row 29 (by decide) ?_
  show encode _ &&& 0xFFFFFFFF#32 = 0x7C0004AC#32
  decide

theorem RowWord.isync : RowWord.Statement (.isync) := by
  refine rowWord_of_row 30 (by decide) ?_
  show encode _ &&& 0xFFFFFFFF#32 = 0x4C00012C#32
  decide

theorem RowWord.eciwx (rD rA rB : GprNum) : RowWord.Statement (.eciwx rD rA rB) := by
  refine rowWord_of_row 31 (by decide) ?_
  show encode _ &&& 0xFC0007FF#32 = 0x7C00026C#32
  simp only [encode, or_and_mask]
  repeat rw [put_and _ _ (by decide)]
  decide

theorem RowWord.ecowx (rS rA rB : GprNum) : RowWord.Statement (.ecowx rS rA rB) := by
  refine rowWord_of_row 32 (by decide) ?_
  show encode _ &&& 0xFC0007FF#32 = 0x7C00036C#32
  simp only [encode, or_and_mask]
  repeat rw [put_and _ _ (by decide)]
  decide

theorem RowWord.slbie (rB : GprNum) : RowWord.Statement (.slbie rB) := by
  refine rowWord_of_row 33 (by decide) ?_
  show encode _ &&& 0xFFFF07FF#32 = 0x7C000364#32
  simp only [encode, or_and_mask]
  repeat rw [put_and _ _ (by decide)]
  decide

theorem RowWord.slbia : RowWord.Statement (.slbia) := by
  refine rowWord_of_row 34 (by decide) ?_
  show encode _ &&& 0xFFFFFFFF#32 = 0x7C0003E4#32
  decide

theorem RowWord.tlbie (rB : GprNum) : RowWord.Statement (.tlbie rB) := by
  refine rowWord_of_row 35 (by decide) ?_
  show encode _ &&& 0xFFFF07FF#32 = 0x7C000264#32
  simp only [encode, or_and_mask]
  repeat rw [put_and _ _ (by decide)]
  decide

theorem RowWord.tlbia : RowWord.Statement (.tlbia) := by
  refine rowWord_of_row 36 (by decide) ?_
  show encode _ &&& 0xFFFFFFFF#32 = 0x7C0002E4#32
  decide

theorem RowWord.addi (rD rA : GprNum) (simm : BitVec 16) : RowWord.Statement (.addi rD rA simm) := by
  refine rowWord_of_row 37 (by decide) ?_
  show encode _ &&& 0xFC000000#32 = 0x38000000#32
  simp only [encode, or_and_mask]
  repeat rw [put_and _ _ (by decide)]
  decide

theorem RowWord.lwz (rD rA : GprNum) (d : BitVec 16) : RowWord.Statement (.lwz rD rA d) := by
  refine rowWord_of_row 38 (by decide) ?_
  show encode _ &&& 0xFC000000#32 = 0x80000000#32
  simp only [encode, or_and_mask]
  repeat rw [put_and _ _ (by decide)]
  decide

theorem RowWord.lswx (rD rA rB : GprNum) : RowWord.Statement (.lswx rD rA rB) := by
  refine rowWord_of_row 39 (by decide) ?_
  show encode _ &&& 0xFC0007FF#32 = 0x7C00042A#32
  simp only [encode, or_and_mask]
  repeat rw [put_and _ _ (by decide)]
  decide

theorem RowWord.stswx (rS rA rB : GprNum) : RowWord.Statement (.stswx rS rA rB) := by
  refine rowWord_of_row 40 (by decide) ?_
  show encode _ &&& 0xFC0007FF#32 = 0x7C00052A#32
  simp only [encode, or_and_mask]
  repeat rw [put_and _ _ (by decide)]
  decide

end Sys2Proof.Laws
end

