-- ==== Sys2Proof/Laws/Translation.lean ====
section
/-! SUPPORT. What `translateAddress` can answer: one lemma for each of the mechanisms. -/

namespace Sys2Proof.Machine

open Sys2Proof.Config

theorem translateAddress_off {s : State} {kind : AccessKind} (a : Word) (h : translates s kind = false) :
    translateAddress s kind a = .real (effective s a) := by
  simp [translateAddress, h]

/-- The four pairs, of which `n` alone satisfies `p`. -/
theorem filter_pairs_unique {p : Fin 4 → Bool} {n : Fin 4} (hn : p n = true) (h : ∀ m, m ≠ n → p m = false) :
    [0, 1, 2, 3].filter p = [n] := by
  match n with
  | 0 => simp [hn, h 1 (by decide), h 2 (by decide), h 3 (by decide)]
  | 1 => simp [hn, h 0 (by decide), h 2 (by decide), h 3 (by decide)]
  | 2 => simp [hn, h 0 (by decide), h 1 (by decide), h 3 (by decide)]
  | 3 => simp [hn, h 0 (by decide), h 1 (by decide), h 2 (by decide)]

theorem batsUsable_iff (s : State) :
    batsUsable s = true ↔ ∀ kind n, batUsable s kind n = true := by
  simp only [batsUsable, List.all_cons, List.all_nil, Bool.and_eq_true]
  refine ⟨fun h kind n => ?_, fun h => by simp [h]⟩
  cases kind <;> match n with
    | 0 | 1 | 2 | 3 => simp_all

theorem translateAddress_unusable {s : State} {kind : AccessKind} (a : Word) (h : translates s kind = true)
    (hb : batsUsable s = false) : translateAddress s kind a = .stopped .unusableBats := by
  simp [translateAddress, h, hb]

theorem translateAddress_block {s : State} {kind : AccessKind} {a : Word} {n : Fin 4} (h : translates s kind = true)
    (hb : batsUsable s = true)
    (hn : batTranslates s kind (effective s a) n = true)
    (hu : ∀ m, m ≠ n → batTranslates s kind (effective s a) m = false) :
    translateAddress s kind a =
      .block n (batPhysical s.cfg (batUpper s kind n) (batLower s kind n) (effective s a)) := by
  simp [translateAddress, h, hb, filter_pairs_unique hn hu]

theorem translateAddress_segment {s : State} {kind : AccessKind} {a : Word} (h : translates s kind = true)
    (hb : batsUsable s = true) (hn : ∀ n, batTranslates s kind (effective s a) n = false) :
    translateAddress s kind a = segmentRoute s (effective s a) := by
  simp [translateAddress, h, hb, hn]

end Sys2Proof.Machine
end

