-- ==== Sys2Proof/Tests/Slice0.lean ====
section
/-! SUPPORT. Tests: the forms the well-formedness check refuses, the decoding of every instruction's word, single steps
with results from 95_test_vectors.md, and for every statement with hypotheses a state that meets them. -/

namespace Sys2Proof.Tests

open Sys2Proof.Config Sys2Proof.Machine

/-! ## Well-formedness: an ill-formed term for each check (R260, R308) -/

theorem test_bcctr_decrement_ill_formed : (Instr.bcctr 16 0 false).wellFormed = false := by decide
theorem test_lswx_target_rA_ill_formed : (Instr.lswx 5 5 4).wellFormed = false := by decide
theorem test_lswx_target_rB_ill_formed : (Instr.lswx 5 0 5).wellFormed = false := by decide
theorem test_lswx_well_formed : (Instr.lswx 5 0 4).wellFormed = true := by decide

/-! ## Decoding: words of the spec's examples, and one word for each family written out field by field (R152, R172) -/

/-- Worked examples of 40_register_moves.md and V30 to V48. -/
theorem test_decode_spr :
    Decode.decode 0x7C8802A6#32 = .ok (.mfspr 4 8) ∧ Decode.decode 0x7C7042A6#32 = .ok (.mfspr 3 272) ∧
    Decode.decode 0x7C7603A6#32 = .ok (.mtspr 22 3) ∧ Decode.decode 0x7C7C43A6#32 = .ok (.mtspr 284 3) ∧
    Decode.decode 0x7C6D42E6#32 = .ok (.mftb 3 269) ∧
    Decode.decode (31#6 ++ 3#5 ++ 16#5 ++ 8#5 ++ 339#10 ++ 0#1 : BitVec 32) = .ok (.mfspr 3 272) := by decide

/-- V50, V51, V63, V66 to V69. -/
theorem test_decode_msr_and_segments :
    Decode.decode 0x7C8000A6#32 = .ok (.mfmsr 4) ∧ Decode.decode 0x7C600124#32 = .ok (.mtmsr 3) ∧
    Decode.decode 0x7C600164#32 = .ok (.mtmsrd 3) ∧ Decode.decode 0x7C8501A4#32 = .ok (.mtsr 5 4) ∧
    Decode.decode 0x7C8029E4#32 = .ok (.mtsrin 4 5) ∧ Decode.decode 0x7C8504A6#32 = .ok (.mfsr 4 5) ∧
    Decode.decode 0x7CA02526#32 = .ok (.mfsrin 5 4) ∧
    Decode.decode (31#6 ++ 4#5 ++ 0#1 ++ 5#4 ++ 0#5 ++ 210#10 ++ 0#1 : BitVec 32) = .ok (.mtsr 5 4) := by decide

/-- V52 to V58, V77, V79, V87. -/
theorem test_decode_cr_and_fpscr :
    Decode.decode 0x4D800000#32 = .ok (.mcrf 3 0) ∧ Decode.decode 0x7C681120#32 = .ok (.mtcrf 0x81 3) ∧
    Decode.decode 0x7F800400#32 = .ok (.mcrxr 7) ∧ Decode.decode 0xFC940080#32 = .ok (.mcrfs 1 5) ∧
    Decode.decode 0xFC00F10C#32 = .ok (.mtfsfi 0 15 false) ∧ Decode.decode 0xFD000D8E#32 = .ok (.mtfsf 0x80 1 false) ∧
    Decode.decode 0xFC20008C#32 = .ok (.mtfsb0 1 false) ∧ Decode.decode 0xFEA0004D#32 = .ok (.mtfsb1 21 true) ∧
    Decode.decode (63#6 ++ 0#1 ++ 0x80#8 ++ 0#1 ++ 1#5 ++ 711#10 ++ 0#1 : BitVec 32) = .ok (.mtfsf 0x80 1 false) := by
  decide

/-- V89 to V91. -/
theorem test_decode_compare :
    Decode.decode 0x7F832000#32 = .ok (.cmp 7 false 3 4) ∧ Decode.decode 0x7C232000#32 = .ok (.cmp 0 true 3 4) ∧
    Decode.decode 0x2C03FFFF#32 = .ok (.cmpi 0 false 3 0xFFFF) ∧ Decode.decode 0x7C032040#32 = .ok (.cmpl 0 false 3 4) ∧
    Decode.decode 0x2803FFFF#32 = .ok (.cmpli 0 false 3 0xFFFF) ∧
    Decode.decode (31#6 ++ 7#3 ++ 0#1 ++ 0#1 ++ 3#5 ++ 4#5 ++ 32#10 ++ 0#1 : BitVec 32) = .ok (.cmpl 7 false 3 4) := by
  decide

/-- V93, V94, V96, V104, V106. -/
theorem test_decode_branch :
    Decode.decode 0x48000009#32 = .ok (.b 2 false true) ∧ Decode.decode 0x48000102#32 = .ok (.b 0x40 true false) ∧
    Decode.decode 0x4082FFF4#32 = .ok (.bc 4 2 0x3FFD false false) ∧
    Decode.decode 0x4E800021#32 = .ok (.bclr 20 0 true) ∧ Decode.decode 0x4D820420#32 = .ok (.bcctr 12 2 false) ∧
    Decode.decode (19#6 ++ 20#5 ++ 0#5 ++ 0#5 ++ 16#10 ++ 1#1 : BitVec 32) = .ok (.bclr 20 0 true) := by decide

/-- V74, V75, V113 to V124 and the worked examples of 43_system_sync.md. -/
theorem test_decode_system :
    Decode.decode 0x44000002#32 = .ok .sc ∧ Decode.decode 0x4C000064#32 = .ok .rfi ∧
    Decode.decode 0x4C000024#32 = .ok .rfid ∧ Decode.decode 0x7C0004AC#32 = .ok .sync ∧
    Decode.decode 0x4C00012C#32 = .ok .isync ∧ Decode.decode 0x7C642A6C#32 = .ok (.eciwx 3 4 5) ∧
    Decode.decode 0x7C642B6C#32 = .ok (.ecowx 3 4 5) ∧ Decode.decode 0x7C002364#32 = .ok (.slbie 4) ∧
    Decode.decode 0x7C0003E4#32 = .ok .slbia ∧ Decode.decode 0x7C002264#32 = .ok (.tlbie 4) ∧
    Decode.decode 0x7C0002E4#32 = .ok .tlbia ∧
    Decode.decode (31#6 ++ 3#5 ++ 4#5 ++ 5#5 ++ 310#10 ++ 0#1 : BitVec 32) = .ok (.eciwx 3 4 5) := by decide

/-- V125, V128, V134, V136. -/
theorem test_decode_load_store :
    Decode.decode 0x3860FFFF#32 = .ok (.addi 3 0 0xFFFF) ∧ Decode.decode 0x8061FFFC#32 = .ok (.lwz 3 1 0xFFFC) ∧
    Decode.decode 0x7FE3242A#32 = .ok (.lswx 31 3 4) ∧ Decode.decode 0x7CE0252A#32 = .ok (.stswx 7 0 4) ∧
    Decode.decode (31#6 ++ 7#5 ++ 0#5 ++ 4#5 ++ 661#10 ++ 0#1 : BitVec 32) = .ok (.stswx 7 0 4) := by decide

/-- R158: what is refused, and by which name. -/
theorem test_decode_refuses :
    Decode.decode 0x60000000#32 = .error (.unknownOpcode 0x60000000) ∧
    Decode.decode 0x7C8501A5#32 = .error (.reservedBitSet "mtsr") ∧
    Decode.decodeBytes [0x7C, 0x85] = .error (.truncated 2) := by decide

/-! ## States to start from: 95_test_vectors.md's conventions, with the optional facilities present -/

/-- Implementation `p` with the MSR `m`, about to execute at 0x2000. -/
def start (p : Params) (m : Word) : State := { State.powerUp p with msr := m, pc := 0x2000, xer := 0, fpscr := 0 }

def p32 : Params := Params.atReset
def p64 : Params := { Params.atReset with impl := .w64 }
def p64b : Params := { Params.atReset with impl := .w64, hasBridge := true }

/-- A state with general register `r` set. -/
def reg (s : State) (r : GprNum) (v : Word) : State := { s with gpr := s.gpr.set r.toNat v r.isLt }

/-- A state with bytes stored from an address on. -/
def bytes (s : State) (a : Nat) (l : List Byte) : State :=
  { s with mem := memWriteAll s.mem ((List.range l.length).map fun k => (a + k, l.getD k 0)) }

/-- The outcome is a next state of which `p` holds. -/
def after (o : Out) (p : State → Bool) : Bool :=
  match o with
  | .next t => p t
  | .fault _ => false
  | .refused _ => false

/-- The outcome is the refusal `r`. -/
def refuses (o : Out) (r : Refusal) : Bool :=
  match o with
  | .next _ => false
  | .fault _ => false
  | .refused q => q == r

/-- The outcome is the fault `f`. -/
def faults (o : Out) (f : Fault) : Bool :=
  match o with
  | .next _ => false
  | .fault g => g == f
  | .refused _ => false

/-! ## Single steps -/

/-- V33, V40. -/
theorem test_mfspr :
    after (exec (.mfspr 3 1) { start p32 0 with xer := 0xC0000005 }) (fun t => readGpr t 3 == 0xC0000005) ∧
    after (exec (.mfspr 5 9) { start p32 0x4000 with ctr := 9 }) (fun t => readGpr t 5 == 9) := by decide

/-- V41, V49. -/
theorem test_mtspr :
    after (exec (.mtspr 22 3) { reg (start p32 0) 3 0x80000000 with dec := 0x7FFFFFFF })
      (fun t => t.dec == 0x80000000 && t.decPending) ∧
    after (exec (.mtspr 284 3) { reg (start p64 0) 3 0xAAAAAAAA00000000 with tb := 0x500000009 })
      (fun t => t.tb == 0x500000000) := by decide

/-- V3, V45. -/
theorem test_mftb :
    after (exec (.mftb 3 268) { start p32 0 with tb := 0x1FFFFFFFE }) (fun t => readGpr t 3 == 0xFFFFFFFE) ∧
    after (exec (.mftb 3 268) { start p64 0 with tb := 0x1FFFFFFFE }) (fun t => readGpr t 3 == 0x1FFFFFFFE) := by decide

/-- V51, V64, V63. -/
theorem test_msr_moves :
    after (exec (.mfmsr 4) (start p32 0x9000)) (fun t => readGpr t 4 == 0x9000) ∧
    after (exec (.mtmsr 3) (reg (start p64b 0x8000000000000000) 3 0x9000)) (fun t => t.msr == 0x8000000000009000) ∧
    after (exec (.mtmsrd 3) (reg (start p64 0) 3 0x8000000000001000)) (fun t => t.msr == 0x8000000000001000) := by decide

/-- V66 to V69. -/
theorem test_segment_moves :
    after (exec (.mtsr 5 4) (reg (start p32 0) 4 0x20000123)) (fun t => t.sr[5] == 0x20000123) ∧
    after (exec (.mtsrin 4 5) (reg (reg (start p32 0) 5 0xA0000000) 4 0x777)) (fun t => t.sr[10] == 0x777) ∧
    after (exec (.mfsr 4 5) { start p32 0 with sr := (start p32 0).sr.set 5 0x20000123 })
      (fun t => readGpr t 4 == 0x20000123) ∧
    after (exec (.mfsrin 5 4) { reg (start p32 0) 4 0xAFFFFFFF with sr := (start p32 0).sr.set 10 0x777 })
      (fun t => readGpr t 5 == 0x777) := by decide

/-- V71 and U2: the segment register moves of a 64-bit implementation, and R207 with the bridge. -/
theorem test_segment_moves_64 :
    refuses (exec (.mtsr 5 4) (start { p64 with undefSpr := .refuse } 0)) .absentOnImplementation ∧
    after (exec (.mfsrin 5 4) (start p64 0)) (fun t => t.srr1 == 0x00080000 && t.srr0 == 0x2000 && t.pc == 0x700) ∧
    refuses (exec (.mfsr 4 5) (start p64b 0)) .segmentBridge ∧
    after (exec (.mtsrin 4 5) (start p64b 0x4000)) (fun t => t.srr1 == 0x00044000) := by decide

/-- V77, V79, V87. -/
theorem test_cr_moves :
    after (exec (.mcrf 3 0) { start p32 0 with cr := 0x20000008 }) (fun t => t.cr == 0x20020008) ∧
    after (exec (.mtcrf 0x81 3) (reg (start p32 0) 3 0x12345678)) (fun t => t.cr == 0x10000008) ∧
    after (exec (.mcrxr 7) { start p32 0 with xer := 0x2000007F }) (fun t => t.cr == 2 && t.xer == 0x7F) := by decide

/-- V55, V56. -/
theorem test_mcrfs :
    after (exec (.mcrfs 1 5) { start p32 0x2000 with fpscr := 0x80000700 })
      (fun t => t.cr == 0x07000000 && visibleFpscr t == 0x80000000) ∧
    after (exec (.mcrfs 0 3) { start p32 0x2000 with fpscr := 0x000F0000 })
      (fun t => t.cr == 0xF0000000 && visibleFpscr t == 0x00070000) := by decide

/-- V53, V54. -/
theorem test_fpscr_fields :
    after (exec (.mtfsfi 0 15 false) (start p32 0x2000)) (fun t => visibleFpscr t == 0x90000000) ∧
    after (exec (.mtfsf 0x80 1 false)
      { start p32 0x2000 with fpscr := 0x90000000, fpr := (start p32 0).fpr.set 1 0x60000000 })
      (fun t => visibleFpscr t == 0) := by decide

/-- V52, V57, V58. -/
theorem test_fpscr_bits :
    after (exec (.mtfsb1 3 false) { start p32 0x2000 with fpscr := 0x40 }) (fun t => visibleFpscr t == 0xD0000040) ∧
    after (exec (.mtfsb1 21 true) (start p32 0x2000))
      (fun t => visibleFpscr t == 0xA0000400 && t.cr == 0x0A000000) ∧
    after (exec (.mtfsb0 1 false) { start p32 0x2000 with fpscr := 0x90000040 })
      (fun t => visibleFpscr t == 0xD0000040) := by decide

/-- The state of V89. -/
def compared : State := { reg (reg (start p32 0) 3 0xFFFFFFFF) 4 1 with xer := 0x80000000 }

/-- V89, V90. -/
theorem test_compares :
    after (exec (.cmp 7 false 3 4) compared) (fun t => t.cr == 0x9) ∧
    after (exec (.cmpl 0 false 3 4) compared) (fun t => t.cr == 0x50000000) ∧
    after (exec (.cmpi 0 false 3 0xFFFF) compared) (fun t => t.cr == 0x30000000) ∧
    after (exec (.cmpli 0 false 3 0xFFFF) compared) (fun t => t.cr == 0x50000000) := by decide

/-- V91. -/
theorem test_compare_doubleword :
    after (exec (.cmp 0 true 3 4) (reg (start p64 0) 3 0x100000000)) (fun t => t.cr == 0x40000000) ∧
    after (exec (.cmp 0 false 3 4) (reg (start p64 0) 3 0x100000000)) (fun t => t.cr == 0x20000000) := by decide

/-- V95, V109. -/
theorem test_branches :
    after (exec (.b 2 false true) { start p32 0 with pc := 0xFFFFFFFC }) (fun t => t.lr == 0 && t.pc == 4) ∧
    after (exec (.bc 16 0 2 false false) { start p64 0 with ctr := 0x100000001 })
      (fun t => t.pc == 0x2004 && t.ctr == 0x100000000) ∧
    after (exec (.bc 16 0 2 false false) { start p64 0x8000000000000000 with ctr := 0x100000001 })
      (fun t => t.pc == 0x2008) := by decide

/-- V103, V104, V106. -/
theorem test_branches_to_registers :
    after (exec (.bclr 20 0 false) { start p32 0 with lr := 0x1007 }) (fun t => t.pc == 0x1004 && t.lr == 0x1007) ∧
    after (exec (.bclr 20 0 true) { start p32 0 with lr := 0x1004 }) (fun t => t.pc == 0x1004 && t.lr == 0x2004) ∧
    after (exec (.bcctr 20 0 true) { start p32 0 with ctr := 0x4002 })
      (fun t => t.pc == 0x4000 && t.ctr == 0x4002 && t.lr == 0x2004) := by decide

/-- V114, V120, V121. -/
theorem test_sc :
    after (exec .sc (start p32 0xD042)) (fun t => t.srr1 == 0xD042 && t.msr == 0x1040 && t.pc == 0xFFF00C00) ∧
    after (exec .sc (start p64 0xC000))
      (fun t => t.srr0 == 0x2004 && t.srr1 == 0xC000 && t.msr == 0x8000000000000000 && t.pc == 0xC00) ∧
    after (exec .sc (start p64b 0x800000000000C000)) (fun t => t.srr1 == 0x800000000000C000 && t.msr == 0) := by decide

/-- V115, V116, V118, V119. -/
theorem test_returns :
    after (exec .rfi { start p32 0x10000 with srr0 := 0x2007, srr1 := 0xC000 })
      (fun t => t.pc == 0x2004 && t.msr == 0x1C000) ∧
    refuses (exec .rfi { start p32 0 with srr0 := 0x100, srr1 := 0x7FFFFFFE }) .addressTranslation ∧
    after (exec .rfid { start p64 0x8000000000000000 with srr0 := 0xFFFFFFFF00003001, srr1 := 0x8000 })
      (fun t => t.pc == 0x3000 && t.msr == 0x8000) ∧
    after (exec .rfid { start p64 0x8000000000000000 with srr0 := 0xFFFFFFFF00003001, srr1 := 0x8000000000008000 })
      (fun t => t.pc == 0xFFFFFFFF00003000) := by decide

/-- V122; and tlbie, tlbia (R287): the pc alone. -/
theorem test_synchronizing :
    after (exec .sync (start p32 0)) (fun t => t.pc == 0x2004) ∧
    after (exec .isync { start p32 0 with storedSince := [0x3000] }) (fun t => t.pc == 0x2004 && t.storedSince == []) ∧
    after (exec (.tlbie 4) (start p32 0)) (fun t => t.pc == 0x2004 && t.windows.tlb) ∧
    after (exec .tlbia (start p32 0)) (fun t => t.pc == 0x2004) ∧
    after (exec (.slbie 4) (start p64 0)) (fun t => t.pc == 0x2004 && t.windows.slb) ∧
    after (exec .slbia (start p64 0)) (fun t => t.pc == 0x2004) := by decide

/-- The state of V74 and V75. -/
def controlled (ear : Word32) : State := { reg (reg (start p32 0) 4 0x1000) 5 0x20 with ear := ear }

/-- V74, V75. -/
theorem test_external_control :
    after (exec (.eciwx 3 4 5) { controlled 0x80000005 with deviceIn := [⟨5, 0x1020, 0xCAFEF00D⟩] })
      (fun t => readGpr t 3 == 0xCAFEF00D) ∧
    after (exec (.ecowx 4 4 5) (controlled 0x80000005)) (fun t => t.deviceOut == [⟨5, 0x1020, 0x1000⟩]) ∧
    after (exec (.ecowx 3 4 5) (controlled 5))
      (fun t => t.dar == 0x1020 && t.dsisr == 0x02100000 && t.srr0 == 0x2000 && t.pc == 0x300 && t.deviceOut == []) := by
  decide

/-- V125, V127. -/
theorem test_addi :
    after (exec (.addi 3 0 0xFFFF) (reg (start p32 0) 0 0x55)) (fun t => readGpr t 3 == 0xFFFFFFFF) ∧
    after (exec (.addi 3 3 1) (reg (start p64 0) 3 0xFFFFFFFF)) (fun t => readGpr t 3 == 0x100000000) := by decide

/-- V129, V130. -/
theorem test_lwz :
    after (exec (.lwz 3 1 0xFFFC) (reg (bytes (start p32 0) 0x1000 [0xDE, 0xAD, 0xBE, 0xEF]) 1 0x1004))
      (fun t => readGpr t 3 == 0xDEADBEEF) ∧
    after (exec (.lwz 3 0 8) (reg (bytes (start p32 0) 8 [0, 0, 0, 0x2A]) 0 0x9999)) (fun t => readGpr t 3 == 0x2A) := by
  decide

/-- The state of V134. -/
def wrapping : State := { reg (bytes (start p32 0) 0x1000 [1, 2, 3, 4, 5, 6, 7, 8]) 3 0x1000 with xer := 8 }

/-- V134, V133. -/
theorem test_lswx :
    after (exec (.lswx 31 3 4) wrapping) (fun t => readGpr t 31 == 0x01020304 && readGpr t 0 == 0x05060708) ∧
    refuses (exec (.lswx 31 0 4) wrapping) .invalidForm ∧
    after (exec (.lswx 5 0 4) { reg (bytes (start p32 0) 0x1000 [0x11, 0x22, 0x33, 0x44, 0x55]) 4 0x1000 with xer := 5 })
      (fun t => readGpr t 5 == 0x11223344 && readGpr t 6 == 0x55000000) := by decide

/-- The state of V136. -/
def storing : State := { reg (reg (start p32 0) 4 0x2000) 7 0xAABBCCDD with xer := 3 }

/-- V136, V85. -/
theorem test_stswx :
    after (exec (.stswx 7 0 4) storing) (fun t => t.mem == [(0x2000, 0xAA), (0x2001, 0xBB), (0x2002, 0xCC)]) ∧
    after (exec (.stswx 7 0 4) { reg storing 4 0xFFE with dabr := 0x1002 })
      (fun t => t.dar == 0xFFE && t.dsisr == 0x02400000 && t.pc == 0x300 && t.mem == []) := by decide

/-- V60: **mtmsr** sets EE with a decrementer request pending; the boundary takes it. -/
theorem test_step_decrementer :
    after (step (({ reg (start p32 0) 3 0x8000 with decPending := true }).withFetchWord 32 0x7C600124))
      (fun t => t.srr0 == 0x2004 && t.srr1 == 0x8000 && t.msr == 0 && t.pc == 0x900 && !t.decPending) := by decide

/-- V146: a branch not taken is traced all the same. -/
theorem test_step_branch_trace :
    after (step ((start p32 0x200).withFetchWord 32 0x41820008))
      (fun t => t.srr0 == 0x2004 && t.srr1 == 0x200 && t.pc == 0xD00) := by decide

/-- A state with the window of MSR[SF] open. -/
def sfOpen (pc : Word) : State :=
  { start p64 0 with pc := pc, windows := { Windows.closed with msr := 0x8000000000000000 } }

/-- U28: with the window of MSR[SF] open **isync** stops at the last word below 2^32, and a branch there does not. -/
theorem test_implicit_branch :
    refuses (complete .isync (sfOpen 0xFFFFFFFC) (contextSync (advance (sfOpen 0xFFFFFFFC)))) .implicitBranch ∧
    implicitBranch .isync (sfOpen 0xFFFFFFF8) (contextSync (advance (sfOpen 0xFFFFFFF8))) = false ∧
    implicitBranch (.b 0x40 true false) (sfOpen 0xFFFFFFFC) (sfOpen 0x100) = false := by decide

/-- R122 and log entry 30: a handler in 32-bit mode behind the prefix of ones is fetched below 2^32. -/
theorem test_fetch_in_32_bit_mode :
    fetchAddr (entered .systemCall 0x2004 (start p64b 0x40)) 0 = 0xFFF00C00 ∧
    fetchAddr (entered .systemCall 0x2004 (start p64 0x40)) 0 = 0xFFFFFFFFFFF00C00 := by decide

/-- V143, V144. -/
theorem test_boundary_requests :
    after (boundary { start p32 0x1002 with inputs := [⟨0, false, true, false⟩] })
      (fun t => t.srr0 == 0x2000 && t.srr1 == 0x1002 && t.msr == 0 && t.pc == 0x200) ∧
    faults (boundary { start p32 2 with inputs := [⟨0, false, true, false⟩] }) .checkstop ∧
    after (boundary { start p32 0x40 with inputs := [⟨0, false, false, true⟩] })
      (fun t => t.srr0 == 0x2000 && t.srr1 == 0x40 && t.msr == 0x40 && t.pc == 0xFFF00100) := by decide

/-- The first instruction after reset is the one placed at the reset vector (R382, V148). -/
theorem test_first_instruction :
    after (step (State.reset.withFetchWord 32 0x38600001)) (fun t => readGpr t 3 == 1 && t.pc == 0xFFF00104) := by decide

/-- Table 2-12 and V8: BL and the area's length, through the BAT match (R73, R74). -/
theorem test_bat :
    batHit p32 0x0000000E 0x0007FFFF = true ∧ batHit p32 0x0000000E 0x00080000 = false := by decide

/-- V20, V21: HTABSIZE and HTABMASK of 3 (R78, R80). -/
theorem test_page_table :
    (hashMask p64 3 = 7 ∧ pageIndexBits p64 3 = 14 ∧ ptegCount p64 3 = 2 ^ 14 ∧ pageTableLog2 p64 3 = 21) ∧
    hashMask p32 7 = 7 ∧ pageIndexBits p32 7 = 13 ∧ ptegCount p32 7 = 2 ^ 13 ∧ pageTableLog2 p32 7 = 19 := by decide

/-- Pair 1 of the IBATs maps the first 128 Kbytes to 0x00100000 at supervisor level; segment 0 is memory-mapped, segment 1
direct-store. -/
def translating (p : Params) (m : Word) : State :=
  { start p m with
    ibat := #v[0, 0, 2, 0x00100000, 0, 0, 0, 0]
    dbat := #v[2, 0, 2, 0, 0, 0, 0, 0]
    sdr1 := 0x00420000
    asr := 0x3000
    sr := #v[0x00000ABC, 0x81F54321, 0, 0, 0, 0, 0, 0, 0, 0, 0, 0, 0, 0, 0, 0] }

/-- R306, by the formats of IEEE 754 (log entry 32): 1, the least denormalized value, infinity; and what does not fit. -/
theorem test_float_formats :
    singleToDouble 0x3F800000 = 0x3FF0000000000000 ∧ singleToDouble 0x80000001 = 0xB6A0000000000000 ∧
    singleToDouble 0x7F800000 = 0x7FF0000000000000 ∧ doubleToSingle 0xB6A0000000000000 = 0x80000001 ∧
    singleRepresentable 0x3FF0000000000001 = false ∧ singleRepresentable 0x47F0000000000000 = false := by decide

/-- R306: a double word to an FPR, and a single from one. -/
theorem test_float_transfers :
    after (loadFprDouble 3 0x1000 (bytes (start p32 0x2000) 0x1000 [1, 2, 3, 4, 5, 6, 7, 8]))
      (fun t => readFpr t 3 == 0x0102030405060708 && t.pc == 0x2004) ∧
    after (storeFprSingle 3 0x1000 (writeFpr (start p32 0x2000) 3 0xBFF0000000000000))
      (fun t => t.mem == [(0x1000, 0xBF), (0x1001, 0x80)]) := by decide

/-- R130: an instruction access goes through an IBAT pair that is valid at its level, else through its segment; a data
access with MSR[DR] = 0 to its effective address. -/
theorem test_translation_order :
    translateAddress (translating p32 0x20) .instruction 0x12345 = .block 1 0x00112345 ∧
    translateAddress (translating p32 0x4020) .instruction 0x12345 = .paged 0x000ABC0012345 0x00420000 ∧
    translateAddress (translating p32 0x20) .instruction 0x10012345 = .directStore 0x1F 0x54321 ∧
    translateAddress (translating p32 0x20) .data 0x12345 = .real 0x12345 ∧
    translateAddress { translating p32 0x20 with sdr1 := 5 } .instruction 0x12345 = .block 1 0x00112345 ∧
    translateAddress { translating p32 0x4020 with sdr1 := 5 } .instruction 0x12345 = .stopped .illFormedSdr1 := by decide

/-- R216, R218: a carry out of the low-order word in 32-bit mode; none of 64 bits. -/
theorem test_flags_by_mode :
    carryOf (start p64 0) 0xFFFFFFFF 1 false = true ∧ carryOf (start p64 0x8000000000000000) 0xFFFFFFFF 1 false = false ∧
    overflowOf (start p64 0) 0x7FFFFFFF 1 false = true ∧
    (recordCr0Word (start p64 0) 0x180000000).cr = 0x80000000 ∧
    (recordCr0 (start p64 0) 0x180000000).cr = 0x80000000 := by decide

/-! ## Witnesses: a state and operands that meet the hypotheses of a statement, clause by clause

`witness_<Name>` is of `Obligations.<Name>`.  A statement without one has no hypotheses. -/

/-- The outcome is some next state. -/
def runs (o : Out) : Bool := after o (fun _ => true)

theorem runs_next {o : Out} (h : runs o = true) : ∃ t, o = .next t := by
  cases o with
  | next t => exact ⟨t, rfl⟩
  | fault r => cases h
  | refused r => cases h

theorem start_inv_32 : (start p32 0x3000).Inv := by
  refine ⟨rfl, ⟨?_, ?_, ?_, ?_, ?_, ?_, ?_, ?_, ?_, ?_, ?_, ?_, ?_, ?_⟩, ?_, ?_, ?_, ?_, ?_⟩ <;>
    first | decide | (simp only [fitsWidth]; decide)

theorem start_inv_64 : (start p64 0x8000000000003000).Inv := by
  refine ⟨rfl, ⟨?_, ?_, ?_, ?_, ?_, ?_, ?_, ?_, ?_, ?_, ?_, ?_, ?_, ?_⟩, ?_, ?_, ?_, ?_, ?_⟩ <;>
    first | decide | (simp only [fitsWidth]; decide)

/-- A state about to execute **addi r3,0,1**. -/
def placed : State := (start p32 0x3000).withFetchWord 32 0x38600001

theorem placed_inv : placed.Inv := by
  refine ⟨rfl, ⟨?_, ?_, ?_, ?_, ?_, ?_, ?_, ?_, ?_, ?_, ?_, ?_, ?_, ?_⟩, ?_, ?_, ?_, ?_, ?_⟩ <;>
    first | decide | (simp only [fitsWidth]; decide)

theorem witness_EveryDecodedWordIsItsEncoding : Decode.decode 0x7C8501A4#32 = .ok (.mtsr 5 4) := by decide

theorem witness_OpcodeTableRows :
    ∃ r ∈ Decode.table, 0x7C8501A5#32 &&& r.opMask = r.pat &&& r.opMask ∧ 0x7C8501A5#32 &&& r.mask ≠ r.pat :=
  ⟨Decode.table[6], List.getElem_mem (by decide), by decide, by decide⟩

theorem witness_StepRunsTheDecodedInstruction :
    fetchRefusal placed = none ∧ Decode.decodeBytes (fetchBytes placed) = .ok (.addi 3 0 1) := by decide

/-- Each stop, and the boundary 2^32 of the implicit branch from both sides. -/
theorem witness_FetchStops :
    unsupportedMsr p32 (contextMsr (start p32 0x20)) = some .addressTranslation ∧
    (unsupportedMsr p64 (contextMsr (sfOpen 0x100000000)) = none ∧
      (sfOpen 0x100000000).windows.msr.getLsbD 63 = true ∧ 2 ^ 32 ≤ (sfOpen 0x100000000).pc.toNat ∧
      (sfOpen 0xFFFFFFFC).pc.toNat < 2 ^ 32 ∧ 2 ^ 32 ≤ ((sfOpen 0xFFFFFFFC).pc + 4).toNat) ∧
    (∃ k < 4, fetchAddr (start p32 0) k ∈ [0x2003]) ∧
    (∃ k < 4, mapped { p32 with memMap := [⟨0, 0x2002⟩] } (fetchAddr (start p32 0) k) = false) ∧
    (∀ r ∈ Decode.table, fetchWord (start p32 0) &&& r.mask ≠ r.pat) ∧
    mode64 (start p32 0) = false ∧
    (∃ t, exec .isync (sfOpen 0xFFFFFFFC) = .next t ∧ t.excCount = (sfOpen 0xFFFFFFFC).excCount) ∧
    branchTaken (start p32 0) 12 2 = false ∧ branchCondOk (start p32 0) 12 2 = false :=
  ⟨by decide, ⟨by simp [unsupportedMsr, contextMsr, sfOpen, start, msrLE, msrIR, msrDR, p64, Params.atReset],
    by decide, by decide, by decide, by decide⟩, ⟨3, by decide, by decide⟩, ⟨3, by decide, by decide⟩, by decide, by decide,
    ⟨_, rfl, by decide⟩, by decide, by decide⟩

theorem witness_WindowContext :
    (start p32 0).windows.msr.getLsbD 14 = false ∧ (start p32 0).windows.ear = [] := by decide

/-- The windows of MSR[PR], MSR[FP] and MSR[ME] are open. -/
def windowsOpen : State :=
  let s := start p32 0x3000
  { s with windows := { s.windows with msr := 0x7000 } }

theorem windowsOpen_inv : windowsOpen.Inv := by
  refine ⟨rfl, ⟨?_, ?_, ?_, ?_, ?_, ?_, ?_, ?_, ?_, ?_, ?_, ?_, ?_, ?_⟩, ?_, ?_, ?_, ?_, ?_⟩ <;>
    first | decide | (simp only [fitsWidth]; decide)

theorem witness_PlacedInstructionIsFetched :
    (windowsOpen.Inv ∧ windowsOpen.windows.msr.getLsbD 63 = false ∧
      ∀ k < 4, mapped p32 (fetchAddr (start p32 0x3000) k)) ∧
    (start p64 0x8000000000003000).Inv ∧ (start p64 0x8000000000003000).windows.msr.getLsbD 63 = false ∧
      ∀ k < 4, mapped p64 (fetchAddr (start p64 0x8000000000003000) k) :=
  ⟨⟨windowsOpen_inv, by decide, by decide⟩, start_inv_64, by decide, by decide⟩

theorem witness_StepKeepsTheInvariant : placed.Inv ∧ ∃ t, step placed = .next t :=
  ⟨placed_inv, runs_next (by decide)⟩

theorem witness_StepKeepsTheParameters : ∃ t, step placed = .next t := runs_next (by decide)

theorem witness_UserLevelLeavesSupervisorState :
    userMode (start p32 0x4000) = true ∧
    ∃ t, exec (.mtcrf 0xFF 3) (start p32 0x4000) = .next t ∧ t.excCount = (start p32 0x4000).excCount :=
  ⟨by decide, _, rfl, rfl⟩

theorem witness_OnlyStswxWritesMemory :
    (∀ rS rA rB, Instr.lwz 3 1 0 ≠ .stswx rS rA rB) ∧ ∃ t, exec (.lwz 3 1 0) (start p32 0) = .next t :=
  ⟨nofun, runs_next (by decide)⟩

theorem witness_OnlyMtsprAndMcrxrWriteTheXer :
    after (exec (.mtspr 1 3) (reg (start p32 0) 3 5)) (fun t => t.xer != (start p32 0).xer) ∧
    after (exec (.mcrxr 0) compared) (fun t => t.xer != compared.xer) := by decide

theorem witness_ExceptionEntryRegisters :
    msrILE (start p32 0x10000).msr = true ∧ msrILE (start p32 0).msr = false ∧
    Exception.machineCheck ≠ .systemReset ∧ Exception.trace ≠ .systemReset ∧ Exception.trace ≠ .machineCheck ∧
    (start p32 2).msr.getLsbD 1 = true ∧ (start p32 0).msr.getLsbD 1 = false := by decide

theorem witness_ExceptionEntrySavesTheMsr :
    ((0x87C0FFFF : Word).getLsbD 15 = true ∧ (msrReserved p32).getLsbD 15 = false) ∧
    ((0x87C0FFFF : Word).getLsbD 0 = true ∧ (start p32 2).msr.getLsbD 0 = false) ∧
    (0x87C0FFFF : Word).getLsbD 16 = false ∧ (0x87C0FFFF : Word).getLsbD 21 = false ∧
    ((0xFFFFFFFF87C0FFFF : Word).getLsbD 63 = true ∧ (msrReserved p64).getLsbD 63 = false) ∧
    is64 p32 = false ∧ is64 p64 = true := by decide

theorem witness_ReturnUndoesExceptionEntry :
    ((start p32 0x3000).Inv ∧ (start p32 0x3000).windows.msr = 0 ∧ msrILE (start p32 0x3000).msr = false ∧
      synchronizes .trace (start p32 0x3000) = true) ∧
    (start p64 0x8000000000003000).Inv ∧ (start p64 0x8000000000003000).windows.msr = 0 ∧
      msrILE (start p64 0x8000000000003000).msr = false ∧
      synchronizes .dsi (start p64 0x8000000000003000) = true :=
  ⟨⟨start_inv_32, by decide, by decide, by decide⟩, start_inv_64, by decide, by decide, by decide⟩

theorem witness_SupervisorInstructionsTrapAtUserLevel :
    (∀ i ∈ [Instr.mfmsr 3, .mtmsr 3, .mtsr 5 4, .mtsrin 4 5, .mfsr 4 5, .mfsrin 5 4, .rfi, .tlbie 4, .tlbia],
      supervisorInstr i = true ∧ existsOn p32 i = true) ∧
    (∀ i ∈ [Instr.mtmsrd 3, .rfid, .slbie 4, .slbia], supervisorInstr i = true ∧ existsOn p64 i = true) ∧
    (∀ i ∈ [Instr.mtsr 5 4, .mtsrin 4 5, .mfsr 4 5, .mfsrin 5 4], supervisorInstr i = true ∧ existsOn p64b i = true) ∧
    userMode (start p64b 0x4000) = true ∧ msrILE (start p64b 0x4000).msr = false ∧
    userMode (start p32 0x4000) = true ∧ msrILE (start p32 0x4000).msr = false ∧
    userMode (start p64 0x4000) = true ∧ msrILE (start p64 0x4000).msr = false := by decide

theorem witness_SupervisorSprsTrapAtUserLevel :
    userMode (start p32 0x4000) = true ∧
    readableSpr p32 272 = some (.sprg 0) ∧ Spr.sprg 0 ∉ [Spr.xer, .lr, .ctr] ∧
    writableSpr p32 284 = some .tbl ∧ Spr.tbl ∉ [Spr.xer, .lr, .ctr] ∧
    readableSpr p32 8 = some .lr ∧ Spr.lr ∈ [Spr.xer, .lr, .ctr] ∧
    writableSpr p32 9 = some .ctr ∧ Spr.ctr ∈ [Spr.xer, .lr, .ctr] := by decide

/-- The state with another `UNDEF_SPR`. -/
def undef (u : UndefSpr) (m : Word) : State := start { p32 with undefSpr := u } m

theorem witness_UndefinedSprNumbers :
    (∀ u ∈ [UndefSpr.illegal, .privileged, .refuse, .byPrivilegeBit],
      readableSpr (undef u 0).cfg 268 = none ∧ writableSpr (undef u 0).cfg 287 = none ∧ (undef u 0).cfg.undefSpr = u) ∧
    (270 : SprNum) ≠ 268 ∧ (270 : SprNum) ≠ 269 ∧ is64 p64 = true ∧ hasBridge p64 = false ∧
    userMode (undef .byPrivilegeBit 0) = false ∧ userMode (undef .byPrivilegeBit 0x4000) = true := by decide

theorem witness_FloatingPointUnavailable :
    fpInstr (.mtfsb1 21 false) = true ∧ msrFP (contextMsr (start p32 0)) = false ∧ msrILE (start p32 0).msr = false := by
  decide

/-- SE with **addi**, BE with a branch, and neither (SE with **rfi**, BE without a branch). -/
theorem witness_TraceExceptions :
    (∃ t, exec (.addi 3 0 1) (start p32 0x400) = .next t ∧ t.excCount = (start p32 0x400).excCount ∧
      implicitBranch (.addi 3 0 1) (start p32 0x400) t = false ∧ fpTrapDue t = false ∧ msrILE t.msr = false) ∧
    p32.hasSe = true ∧ msrSE (contextMsr (start p32 0x400)) = true ∧
    (∃ t, exec (.bc 12 2 2 false false) (start p32 0x200) = .next t ∧ t.excCount = (start p32 0x200).excCount ∧
      implicitBranch (.bc 12 2 2 false false) (start p32 0x200) t = false ∧ fpTrapDue t = false ∧ msrILE t.msr = false) ∧
    p32.hasBe = true ∧ msrBE (contextMsr (start p32 0x200)) = true ∧ msrSE (contextMsr (start p32 0x200)) = false ∧
    (∃ t, exec .rfi (start p32 0x400) = .next t ∧ t.excCount = (start p32 0x400).excCount ∧
      implicitBranch .rfi (start p32 0x400) t = false ∧ fpTrapDue t = false ∧ msrILE t.msr = false) :=
  ⟨⟨_, rfl, by decide, by decide, by decide, by decide⟩, by decide, by decide,
    ⟨_, rfl, by decide, by decide, by decide, by decide⟩, by decide, by decide, by decide,
    ⟨_, rfl, by decide, by decide, by decide, by decide⟩⟩

theorem witness_BoundaryExceptionOrder :
    msrME (contextMsr (start p32 0x1000)) = true ∧ msrME (contextMsr (start p32 0)) = false ∧
    msrEE (start p32 0x8000).msr = true ∧ msrEE (start p32 0).msr = false ∧
    ({ start p32 0x8000 with decPending := true }).decPending = true ∧ (start p32 0x8000).decPending = false ∧
    ({ start p32 0 with inputs := [⟨2, true, false, false⟩] }).inputs = ⟨2, true, false, false⟩ :: [] := by decide

theorem witness_DataBreakpointMatch : (start p32 0).cfg.hasDabr = true := by decide

/-- The states of V82 and V85, and external control that is disabled. -/
theorem witness_DataAccessesRaiseDsi :
    (let s := { reg (start p32 0) 1 0x1000 with dabr := 0x1001 };
      msrILE s.msr = false ∧ wordAligned (eaDisp s 1 4) = true ∧ dabrMatch s .load (eaDisp s 1 4) 4 = true ∧
        wordAligned (eaDisp s 1 5) = false ∧ s.cfg.misaligned = .bytewise ∧ dabrMatch s .load (eaDisp s 1 5) 4 = true) ∧
    (let s := { reg (start p32 0) 4 0xFFE with dabr := 0x1001, xer := 3 };
      lswxInvalid 7 0 4 (xerByteCount s.xer) = false ∧
        dabrMatch s .load (eaIndexed s 0 4) (xerByteCount s.xer) = true) ∧
    (let s := { reg (start p32 0) 4 0xFFE with dabr := 0x1002, xer := 3 };
      dabrMatch s .store (eaIndexed s 0 4) (xerByteCount s.xer) = true) ∧
    (let s := controlled 5;
      s.cfg.hasEar = true ∧ (contextEar s).getLsbD 31 = false ∧ wordAligned (eaIndexed s 4 5) = true ∧
        msrILE s.msr = false) ∧
    (let s := { controlled 0x80000005 with dabr := 0x1023 };
      s.cfg.hasEar = true ∧ (contextEar s).getLsbD 31 = true ∧ wordAligned (eaIndexed s 4 5) = true ∧
        dabrMatch s .load (eaIndexed s 4 5) 4 = true ∧ dabrMatch s .store (eaIndexed s 4 5) 4 = true) := by decide

theorem witness_MisalignedLoadWord :
    (let s := reg (start { p32 with misaligned := .alignment } 0) 1 0x1001;
      wordAligned (eaDisp s 1 0) = false ∧ s.cfg.misaligned = .alignment ∧ msrILE s.msr = false) ∧
    (let s := reg (start { p32 with misaligned := .refuse } 0) 1 0x1003;
      wordAligned (eaDisp s 1 0) = false ∧ s.cfg.misaligned = .refuse) := by decide

theorem witness_InvalidFormsStop :
    segmentInstr (.mtmsrd 3) = false ∧ existsOn p32 (.mtmsrd 3) = false ∧ existsOn p64 .rfi = false ∧ (16 : BitVec 5).getLsbD 2 = false ∧
    is64 (start p32 0).cfg = false ∧
    ∃ j < (xerByteCount wrapping.xer + 3) / 4, (31 : GprNum) + BitVec.ofNat 5 j = 0 :=
  ⟨by decide, by decide, by decide, by decide, by decide, 1, by decide, by decide⟩

/-- The bits of D8, D9 and D20, with and without HAS_POW. -/
theorem witness_UndefinedOperandsStop_modes :
    { p32 with hasPow := true }.hasPow = true ∧ (0x00040000 : Word).getLsbD 18 = true ∧ p32.hasPow = false ∧
    (0x1 : Word).getLsbD 0 = true ∧ (0x20 : Word).getLsbD 0 = false ∧ (0x20 : Word).getLsbD 5 = true ∧
    (0x10 : Word).getLsbD 4 = true ∧
    (let s := reg (start { p32 with hasPow := true } 0) 3 0x00040000;
      userMode s = false ∧ is64 s.cfg = false ∧
        unsupportedMsr s.cfg (readGpr s 3 &&& 0x00000000FFFFFFFF) = some .powerManagement) := by decide

theorem witness_UndefinedOperandsStop :
    userMode (start p32 0) = false ∧
    (writableSpr p32 529 = some (.ibat 1) ∧ readGpr (reg (start p32 0) 3 0x48) 3 &&& 0x48 ≠ 0) ∧
    msrIR (contextMsr (start p32 0x20)) = true ∧ msrDR (contextMsr (start p32 0x10)) = true ∧
    (userMode (start p64 0) = false ∧ userMode (start p64b 0) = false ∧ is64 p32 = false ∧ is64 p64 = true ∧
      hasBridge p64b = true) ∧
    unsupportedMsr p32 (readGpr (reg (start p32 0) 3 1) 3 &&& 0x00000000FFFFFFFF) = some .littleEndianMode ∧
    unsupportedMsr p64b (((start p64b 0).msr &&& 0xFFFFFFFF00000000) |||
      (readGpr (reg (start p64b 0) 3 0x20) 3 &&& 0x00000000FFFFFFFF)) = some .addressTranslation ∧
    unsupportedMsr p64 (readGpr (reg (start p64 0) 3 0x30) 3) = some .addressTranslation ∧
    unsupportedMsr p32 (((start p32 0).msr &&& 0xFFFFFFFF783F0000) ||| (0x7FFFFFFE &&& 0x0000000087C0FFFF)) =
      some .addressTranslation ∧
    unsupportedMsr p64 (((start p64 0).msr &&& 0x00000000783F0000) ||| (0x10 &&& 0xFFFFFFFF87C0FFFF)) =
      some .addressTranslation ∧
    segmentInstr (.mtsr 5 4) = true := by decide

/-- Loads, stores and external control, at user level. -/
theorem witness_UndefinedOperandsStop_accesses :
    (let s := reg (start { p32 with memMap := [] } 0x4000) 1 0x1000;
      userMode s = true ∧ wordAligned (eaDisp s 1 0) = true ∧ s.cfg.misaligned = .bytewise ∧
        dabrMatch s .load (eaDisp s 1 1) 4 = false ∧ accessRefusal s (eaDisp s 1 1) 4 = some .noMemory) ∧
    (let s := { storing with cfg := { p32 with memMap := [⟨0, 0x2002⟩] } };
      lswxInvalid 7 0 4 (xerByteCount s.xer) = false ∧
        dabrMatch s .load (eaIndexed s 0 4) (xerByteCount s.xer) = false ∧
        dabrMatch s .store (eaIndexed s 0 4) (xerByteCount s.xer) = false ∧
        accessRefusal s (eaIndexed s 0 4) (xerByteCount s.xer) = some .noMemory) ∧
    (let s := start { p32 with memMap := [⟨0, 0x2002⟩] } 0;
      msrDR (contextMsr s) = false ∧ mapped s.cfg (byteAddr s 0x2000 1) = true ∧
        mapped s.cfg (byteAddr s 0x2000 2) = false) ∧
    p32.hasEar = true ∧ wordAligned (eaIndexed (reg (start p32 0) 4 2) 4 5) = false ∧
    (let s := { controlled 0x80000005 with msr := 0x4010 };
      wordAligned (eaIndexed s 4 5) = true ∧ (contextEar s).getLsbD 31 = true ∧ msrDR (contextMsr s) = true ∧
        dabrMatch s .load (eaIndexed s 4 5) 4 = false ∧ dabrMatch s .store (eaIndexed s 4 5) 4 = false) := by decide

theorem witness_MfsprResult :
    userMode (start p32 0) = false ∧ readableSpr p32 287 = some .pvr ∧ readableSpr p32 25 = some .sdr1 ∧
    readableSpr p32 282 = some .ear ∧ readableSpr p32 529 = some (.ibat 1) ∧ readableSpr p32 536 = some (.dbat 0) ∧
    (readableSpr p64 280 = some .asr ∧ userMode (start p64 0) = false) ∧
    userMode (start p32 0x4000) = true ∧ readableSpr p32 1 = some .xer ∧ Spr.xer ∈ [Spr.xer, .lr, .ctr] := by decide

theorem witness_MtsprResult :
    userMode (start p32 0) = false ∧ writableSpr p32 22 = some .dec ∧ writableSpr p32 26 = some .srr0 ∧
    (writableSpr p32 529 = some (.ibat 1) ∧ readGpr (reg (start p32 0) 3 0xFFFE0002) 3 &&& 0x48 = 0) ∧
    (writableSpr p32 25 = some .sdr1 ∧ msrIR (contextMsr (start p32 0)) = false ∧
      msrDR (contextMsr (start p32 0)) = false) ∧
    (writableSpr p64 280 = some .asr ∧ userMode (start p64 0) = false) ∧
    userMode (start p32 0x4000) = true ∧ writableSpr p32 9 = some .ctr ∧ Spr.ctr ∈ [Spr.xer, .lr, .ctr] := by decide

theorem witness_MfmsrResult : userMode (start p32 0x9000) = false ∧ fitsWidth p32 (start p32 0x9000).msr :=
  ⟨by decide, by simp only [fitsWidth]; decide⟩

/-- A changed bit with a window (ME), one without (EE). -/
theorem witness_MoveToMsrResult :
    (let s := reg (start p32 0) 3 0x9000;
      userMode s = false ∧ is64 s.cfg = false ∧ unsupportedMsr s.cfg (low32 (readGpr s 3)) = none) ∧
    (let s := reg (start p64b 0x8000000000000000) 3 0x9000;
      userMode s = false ∧ hasBridge s.cfg = true ∧
        unsupportedMsr s.cfg ((s.msr &&& 0xFFFFFFFF00000000) ||| (readGpr s 3 &&& 0x00000000FFFFFFFF)) = none) ∧
    (let s := reg (start p64 0) 3 0x8000000000001000;
      userMode s = false ∧ is64 s.cfg = true ∧ unsupportedMsr s.cfg (readGpr s 3) = none) := by decide

theorem witness_SegmentRegisterWrites :
    let s := reg (start p32 0) 5 0xF0000000;
    is64 s.cfg = false ∧ userMode s = false ∧ (15 : SrNum) = (readGpr s 5).extractLsb' 28 4 := by decide

theorem witness_SegmentRegisterReads :
    let s := reg (start p32 0) 4 0xAFFFFFFF;
    is64 s.cfg = false ∧ userMode s = false ∧ (10 : SrNum) = (readGpr s 4).extractLsb' 28 4 := by decide

/-- Two words agree with a description of their bits if they do below bit 32. -/
theorem bits_of_below {f : Word32} {g : Nat → Bool} (h : ∀ k < 32, f.getLsbD k = g k) (hg : ∀ k, 32 ≤ k → g k = false) :
    ∀ k, f.getLsbD k = g k := fun k => by
  by_cases hk : k < 32
  · exact h k hk
  · rw [hg k (Nat.le_of_not_lt hk), BitVec.getLsbD_of_ge _ _ (Nat.le_of_not_lt hk)]

/-- V55 and V76: no exception due, and one due. -/
theorem witness_McrfsResult :
    (let s := { start p32 0x2000 with fpscr := 0x80000700 };
      msrFP (contextMsr s) = true ∧ fpscrFEX 0x80000000 = false ∧
        ∀ k, (0x80000000 : Word32).getLsbD k = (s.fpscr.getLsbD k && decide (k ≠ 30 ∧ k ≠ 29) &&
          !(decide (k / 4 = 7 - (5 : FieldNum).toNat) && (0x9FF80700#32).getLsbD k))) ∧
    (let s := { start p32 0x2800 with fpscr := 0x10000040 };
      msrFP (contextMsr s) = true ∧ fpscrFEX 0x10000040 = true ∧ msrFpMode (contextMsr s) ≠ .disabled ∧
        ∀ k, (0x10000040 : Word32).getLsbD k = (s.fpscr.getLsbD k && decide (k ≠ 30 ∧ k ≠ 29) &&
          !(decide (k / 4 = 7 - (7 : FieldNum).toNat) && (0x9FF80700#32).getLsbD k))) := by
  refine ⟨⟨by decide, by decide, bits_of_below (by decide) fun k hk => ?_⟩,
    by decide, by decide, by decide, bits_of_below (by decide) fun k hk => ?_⟩ <;>
    rw [BitVec.getLsbD_of_ge _ _ hk] <;> rfl

/-- V53, V54, and a field write after which an exception is due. -/
theorem witness_FpscrFieldWrites :
    (let s := start p32 0x2000;
      msrFP (contextMsr s) = true ∧ fpscrFEX 0x90000000 = false ∧
        ∀ k, (0x90000000 : Word32).getLsbD k = (decide (k ≠ 30 ∧ k ≠ 29) &&
          if k < 32 ∧ k / 4 = 7 - (0 : FieldNum).toNat then (15 : BitVec 4).getLsbD (k % 4) else s.fpscr.getLsbD k)) ∧
    (let s := { start p32 0x2000 with fpscr := 0x90000000, fpr := (start p32 0).fpr.set 1 0x60000000 };
      msrFpMode (contextMsr s) = .disabled ∧
        ∀ k, (0 : Word32).getLsbD k = (decide (k ≠ 30 ∧ k ≠ 29) &&
          if k < 32 ∧ (0x80 : BitVec 8).getLsbD (k / 4) = true then (readFpr s 1).getLsbD k else s.fpscr.getLsbD k)) ∧
    (let s := { start p32 0x2800 with fpscr := 0x40 };
      fpscrFEX 0x10000040 = true ∧ msrFpMode (contextMsr s) ≠ .disabled ∧
        ∀ k, (0x10000040 : Word32).getLsbD k = (decide (k ≠ 30 ∧ k ≠ 29) &&
          if k < 32 ∧ k / 4 = 7 - (0 : FieldNum).toNat then (1 : BitVec 4).getLsbD (k % 4) else s.fpscr.getLsbD k)) := by
  refine ⟨⟨by decide, by decide, bits_of_below (by decide) fun k hk => ?_⟩,
    ⟨by decide, bits_of_below (by decide) fun k hk => ?_⟩,
    by decide, by decide, bits_of_below (by decide) fun k hk => ?_⟩ <;>
    rw [if_neg (fun h => absurd h.1 (Nat.not_lt.2 hk)), BitVec.getLsbD_of_ge _ _ hk, Bool.and_false]

/-- V52, V57, V76: **mtfsb1** of OX, **mtfsb0** of FEX, **mtfsb1** of OX with the exception due. -/
theorem witness_FpscrBitWrites :
    (let s := { start p32 0x2000 with fpscr := 0x40 };
      msrFP (contextMsr s) = true ∧ msrFpMode (contextMsr s) = .disabled ∧ fpscrFEX 0x90000040 = true ∧
        msrFpMode (contextMsr { start p32 0x2800 with fpscr := 0x40 }) ≠ .disabled ∧
        ∀ k, (0x90000040 : Word32).getLsbD k = (decide (k ≠ 30 ∧ k ≠ 29) &&
          (s.fpscr.getLsbD k || decide (k = 31 - (3 : BitVec 5).toNat) ||
          (decide (k = 31) && (0x1FF80700#32).getLsbD (31 - (3 : BitVec 5).toNat) &&
            !s.fpscr.getLsbD (31 - (3 : BitVec 5).toNat))))) ∧
    (let s := { start p32 0x2000 with fpscr := 0x90000040 };
        ∀ k, (0x90000040 : Word32).getLsbD k =
          (s.fpscr.getLsbD k && decide (k ≠ 30 ∧ k ≠ 29 ∧ k ≠ 31 - (1 : BitVec 5).toNat))) := by
  refine ⟨⟨by decide, by decide, by decide, by decide, bits_of_below (by decide) fun k hk => ?_⟩,
    bits_of_below (by decide) fun k hk => ?_⟩
  · have h1 : k ≠ 31 - (3 : BitVec 5).toNat := fun h => by subst h; exact absurd hk (by decide)
    have h2 : k ≠ 31 := fun h => by subst h; exact absurd hk (by decide)
    rw [BitVec.getLsbD_of_ge _ _ hk, decide_eq_false h1, decide_eq_false h2]; simp
  · rw [BitVec.getLsbD_of_ge _ _ hk]; rfl

theorem witness_SignedCompareResult :
    ((false = true → is64 p32 = true) ∧ (-1 : Int) = ((readGpr compared 3).setWidth 32).toInt ∧
      (1 : Int) = ((readGpr compared 4).setWidth 32).toInt ∧ (-1 : Int) = (0xFFFF : BitVec 16).toInt) ∧
    (true = true → is64 p64 = true) ∧ (0x100000000 : Int) = (readGpr (reg (start p64 0) 3 0x100000000) 3).toInt := by
  decide

theorem witness_UnsignedCompareResult :
    ((false = true → is64 p32 = true) ∧ 0xFFFFFFFF = (readGpr compared 3).toNat % 2 ^ 32 ∧
      1 = (readGpr compared 4).toNat % 2 ^ 32 ∧ 0xFFFF = (0xFFFF : BitVec 16).toNat) ∧
    (true = true → is64 p64 = true) ∧ 0x100000000 = (readGpr (reg (start p64 0) 3 0x100000000) 3).toNat := by decide

/-- Every row of the table is some BO, with both values of its ignored bit; V6, CTR = 0 and CTR = 1. -/
theorem witness_BranchOptionTable :
    (∀ (v : BitVec 4) (y : BitVec 1), (v ++ y : BitVec 5).extractLsb' 1 4 = v) ∧
    (true = (effective (start p32 0) (toWidth p32 ((start p32 0).ctr - 1)) != 0)) ∧
    (let s := { start p32 0 with ctr := 1 };
      false = (effective s (toWidth s.cfg (s.ctr - 1)) != 0)) := by decide

theorem witness_BranchToRegisterResult : (20 : BitVec 5).getLsbD 2 = true ∧ (4 : BitVec 5).getLsbD 2 = true := by decide

theorem witness_SystemCallResult : msrILE (start p32 0xD042).msr = false := by decide

/-- V115, the bridge, and V118. -/
theorem witness_ReturnFromExceptionResult :
    (let s := { start p32 0x10000 with srr0 := 0x2007, srr1 := 0xC000 };
      userMode s = false ∧ is64 s.cfg = false ∧
        unsupportedMsr s.cfg ((s.msr &&& 0xFFFFFFFF783F0000) ||| (s.srr1 &&& 0x0000000087C0FFFF)) = none) ∧
    (let s := { start p64b 0x8000000000000000 with srr1 := 0xC000 };
      userMode s = false ∧ hasBridge s.cfg = true ∧
        unsupportedMsr s.cfg ((s.msr &&& 0xFFFFFFFF783F0000) ||| (s.srr1 &&& 0x0000000087C0FFFF)) = none) ∧
    (let s := { start p64 0x8000000000000000 with srr1 := 0x8000 };
      userMode s = false ∧ is64 s.cfg = true ∧
        unsupportedMsr s.cfg ((s.msr &&& 0x00000000783F0000) ||| (s.srr1 &&& 0xFFFFFFFF87C0FFFF)) = none) := by decide

/-- V74, with RID = 5 and all six bits supported. -/
theorem witness_ExternalControlResult :
    let s := controlled 0x80000005;
    s.cfg.hasEar = true ∧ (contextEar s).getLsbD 31 = true ∧ wordAligned (eaIndexed s 4 5) = true ∧
      msrDR (contextMsr s) = false ∧ dabrMatch s .load (eaIndexed s 4 5) 4 = false ∧
      dabrMatch s .store (eaIndexed s 4 5) 4 = false ∧
      ∀ k, (5 : BitVec 6).getLsbD k = ((contextEar s).getLsbD k && decide (k < s.cfg.ridBits.val)) := by
  refine ⟨by decide, by decide, by decide, by decide, by decide, by decide, fun k => ?_⟩
  by_cases hk : k < 6
  · revert k; decide
  · rw [BitVec.getLsbD_of_ge _ _ (Nat.le_of_not_lt hk)]
    rw [show decide (k < (controlled 0x80000005).cfg.ridBits.val) = false from decide_eq_false hk, Bool.and_false]

theorem witness_SynchronizationResult :
    userMode (start p32 0) = false ∧ userMode (start p64 0) = false ∧ is64 (start p64 0).cfg = true := by decide

/-- An aligned address in 32-bit mode, a misaligned one in 64-bit mode. -/
theorem witness_LwzResult :
    (let s := reg (start p32 0) 1 0x1000;
      (0x1000 : Word) = effective s (readGpr s 1 + (0 : BitVec 16).signExtend 64) ∧ wordAligned 0x1000 = true ∧
        dabrMatch s .load 0x1000 4 = false ∧ msrDR (contextMsr s) = false ∧ msrLE (contextMsr s) = false ∧
        ∀ k < 4, mapped s.cfg (byteAddr s 0x1000 k) = true) ∧
    (let s := reg (start p64 0x8000000000000000) 1 0x1000;
      (0x1001 : Word) = effective s (readGpr s 1 + (1 : BitVec 16).signExtend 64) ∧
        s.cfg.misaligned = .bytewise ∧
        dabrMatch s .load 0x1001 4 = false ∧ msrDR (contextMsr s) = false ∧ msrLE (contextMsr s) = false ∧
        ∀ k < 4, mapped s.cfg (byteAddr s 0x1001 k) = true) := by decide

/-- V134: eight bytes into GPR31 and GPR0; and V135: none. -/
theorem witness_LswxResult :
    (let s := wrapping;
      8 = (s.xer &&& 0x7F).toNat ∧ (0x1000 : Word) = effective s (readGpr s 3 + readGpr s 4) ∧
        (31 : GprNum) ≠ 3 ∧ (31 : GprNum) ≠ 4 ∧
        (∀ j < (8 + 3) / 4, (31 : GprNum) + BitVec.ofNat 5 j ≠ 3 ∧ (31 : GprNum) + BitVec.ofNat 5 j ≠ 4) ∧
        dabrMatch s .load 0x1000 8 = false ∧ msrDR (contextMsr s) = false ∧ msrLE (contextMsr s) = false ∧
        ∀ k < 8, mapped s.cfg (byteAddr s 0x1000 k) = true) ∧
    (let s := { wrapping with xer := 0 };
      0 = (s.xer &&& 0x7F).toNat ∧ (∀ j < (0 + 3) / 4, (5 : GprNum) + BitVec.ofNat 5 j ≠ 4) ∧
        dabrMatch s .load 0x1000 0 = false ∧ ∀ k < 0, mapped s.cfg (byteAddr s 0x1000 k) = true) := by decide

/-- V136, and a count of zero. -/
theorem witness_StswxResult :
    (let s := storing;
      3 = (s.xer &&& 0x7F).toNat ∧ (0x2000 : Word) = effective s (0 + readGpr s 4) ∧ s.mem.wf = true ∧
        dabrMatch s .store 0x2000 3 = false ∧ msrDR (contextMsr s) = false ∧ msrLE (contextMsr s) = false ∧
        ∀ k < 3, mapped s.cfg (byteAddr s 0x2000 k) = true) ∧
    (let s := { storing with xer := 0 };
      0 = (s.xer &&& 0x7F).toNat ∧ dabrMatch s .store 0x2000 0 = false) := by decide

theorem witness_RecordedFlagsByMode :
    32 = (if mode64 (start p64 0) then 64 else 32) ∧ 64 = (if mode64 (start p64 0x8000000000000000) then 64 else 32) ∧
    mode64 (start p64 0) = false ∧ mode64 (start p64 0x8000000000000000) = true := by
  decide

/-- An FPR that has a single-precision form, and one that has none. -/
theorem witness_FloatTransferResult :
    msrFP (contextMsr (start p32 0)) = false ∧
    let s := writeFpr (start p32 0x2000) 3 0x3FF0000000000001;
    msrFP (contextMsr s) = true ∧ msrDR (contextMsr s) = false ∧ msrLE (contextMsr s) = false ∧ s.mem.wf = true ∧
      dabrMatch s .load 0x1000 8 = false ∧ dabrMatch s .store 0x1000 8 = false ∧
      dabrMatch s .load 0x1000 4 = false ∧ dabrMatch s .store 0x1000 4 = false ∧
      (∀ k < 8, mapped s.cfg (byteAddr s 0x1000 k) = true) ∧ singleRepresentable (readFpr s 0) = true ∧
      singleRepresentable (readFpr s 3) = false ∧ msrFpMode (contextMsr s) = .disabled := by decide

/-- An infinity, a normalized value, a zero and the least denormalized one. -/
theorem witness_FloatTransferResult_formats :
    ((0x7F800000 : Word32).extractLsb' 23 8).toNat = 255 ∧ ((0x3F800000 : Word32).extractLsb' 23 8).toNat = 127 ∧
    ((0 : Word32).extractLsb' 23 8).toNat = 0 ∧ ((0 : Word32).extractLsb' 0 23).toNat = 0 ∧
    ((1 : Word32).extractLsb' 23 8).toNat = 0 ∧ ((1 : Word32).extractLsb' 0 23).toNat ≠ 0 := by decide

/-- Translation off, one pair, two pairs, no pair (either segment format), and 64-bit implementations without and with the
bridge. -/
theorem witness_TranslationOrder :
    msrIR (contextMsr (translating p32 0)) = false ∧ msrIR (contextMsr (translating p32 0x20)) = true ∧
    msrDR (contextMsr (translating p32 0x10)) = true ∧
    (∀ n, batUsable (translating p32 0x20) .instruction n = true ∧ batUsable (translating p32 0x20) .data n = true) ∧
    batUsable { translating p32 0x20 with ibat := #v[10, 0, 0, 0, 0, 0, 0, 0] } .instruction 0 = false ∧
    batUsable { translating p32 0x20 with dbat := #v[0x20005, 0, 0, 0, 0, 0, 0, 0] } .data 0 = false ∧
    (batTranslates (translating p32 0x20) .instruction 0x12345 1 = true ∧
      ∀ m, m ≠ 1 → batTranslates (translating p32 0x20) .instruction 0x12345 m = false) ∧
    (batTranslates (translating p32 0x10) .data 0x12345 0 = true ∧
      batTranslates (translating p32 0x10) .data 0x12345 1 = true) ∧
    (∀ n, batTranslates (translating p32 0x20) .instruction 0x10012345 n = false) ∧ is64 p32 = false ∧
    (0x00000ABC : Word32).getLsbD 31 = false ∧ (0x81F54321 : Word32).getLsbD 31 = true ∧
    (∀ n, batTranslates (translating p64 0x20) .instruction 0x10012345 n = false) ∧ is64 p64 = true ∧
    hasBridge p64 = false ∧
    (∀ n, batTranslates (translating p64b 0x20) .instruction 0x10012345 n = false) ∧ hasBridge p64b = true ∧
    (translating p64b 0x20).asr.getLsbD 0 = false ∧ msrSF (contextMsr (translating p64b 0x20)) = false := by decide

end Sys2Proof.Tests
end

section
/-! The BAT area comparison of R74, bit by bit: which address bits the mask of a BAT pair covers, what BEPI holds, and
from these when an address hits the area. -/

namespace Sys2Proof.Machine

open Sys2Proof.Config

theorem getLsbD_batBL (upper : Word) (j : Nat) :
    (batBL upper).getLsbD j = (decide (j < 11) && upper.getLsbD (2 + j)) :=
  BitVec.getLsbD_extractLsb' 2 11 upper j

/-- BL's bit `j`, which is bit 2 + `j` of the upper register, lies over bit 17 + `j` of the address; the 17 bits to its
right are always in the offset (R74). -/
theorem getLsbD_batOffsetMask (upper : Word) (k : Nat) :
    (batOffsetMask upper).getLsbD k = (decide (k < 17) || (decide (k < 28) && upper.getLsbD (k - 15))) := by
  have low17 : (0x1FFFF : Word) = (BitVec.allOnes 17).setWidth 64 := by decide
  rw [batOffsetMask, low17]
  simp only [BitVec.getLsbD_or, BitVec.getLsbD_shiftLeft, BitVec.getLsbD_setWidth, BitVec.getLsbD_allOnes,
    getLsbD_batBL]
  by_cases h17 : k < 17
  · simp [h17, show k < 64 by omega]
  by_cases h28 : k < 28
  · have hj : 2 + (k - 17) = k - 15 := by omega
    simp [h17, h28, hj, show k < 64 by omega, show k - 17 < 64 by omega, show k - 17 < 11 by omega]
  · simp [h17, h28, show ¬k - 17 < 11 by omega]

theorem getLsbD_batBEPI (p : Params) (upper : Word) (k : Nat) :
    (batBEPI p upper).getLsbD k = ((is64 p || decide (k < 32)) && (decide (17 ≤ k) && upper.getLsbD k)) := by
  have from17 : (0xFFFFFFFFFFFE0000 : Word) = BitVec.allOnes 64 <<< 17 := by decide
  rw [batBEPI, getLsbD_toWidth, from17, BitVec.getLsbD_and, BitVec.getLsbD_shiftLeft, BitVec.getLsbD_allOnes]
  by_cases hk : k < 64
  · by_cases h17 : k < 17
    · simp [h17, show ¬17 ≤ k by omega]
    · simp [hk, h17, show 17 ≤ k by omega, show k - 17 < 64 by omega]
  · simp [BitVec.getLsbD_of_ge upper k (by omega)]

/-- An address hits the area when each of its bits that the offset does not cover equals BEPI's, as wide as the
implementation is. -/
theorem batHit_iff (p : Params) (upper ea : Word) :
    batHit p upper ea = true ↔ ∀ k < 64,
      ((is64 p || decide (k < 32)) && ea.getLsbD k && !(batOffsetMask upper).getLsbD k) =
        (batBEPI p upper).getLsbD k := by
  rw [batHit, beq_iff_eq, BitVec.eq_of_getLsbD_eq_iff]
  refine forall₂_congr fun k hk => ?_
  rw [BitVec.getLsbD_and, BitVec.getLsbD_not, getLsbD_toWidth]
  simp [hk]

/-- Settles O59: below bit 17 the mask covers the address and BEPI has no bit, past the implementation's width neither
side has one, and every other bit is compared as R74 says. -/
theorem batAreaMatch : Obligations.BatAreaMatch := by
  unfold Obligations.BatAreaMatch
  intro p upper ea
  constructor
  · rw [batHit_iff]
    refine forall_congr' fun k => ?_
    rw [getLsbD_batOffsetMask, getLsbD_batBEPI]
    by_cases h17 : k < 17
    · simp [h17, show ¬17 ≤ k by omega]
    have hge : 17 ≤ k := by omega
    by_cases hw : k < 32 ∨ is64 p = true
    · have hwb : (is64 p || decide (k < 32)) = true := by simpa [or_comm] using hw
      simp [h17, hge, hw, hwb]
    · have hwb : (is64 p || decide (k < 32)) = false := by simpa [and_comm] using hw
      simp [hw, hwb]
  · intro k
    rw [BitVec.getLsbD_and, getLsbD_batOffsetMask]

end Sys2Proof.Machine
end

section
/-! The level of the SPR moves (R181): what **mfspr** and **mtspr** do where the number is defined, when the level may not
use the register and when it may. -/

namespace Sys2Proof.Machine

theorem Spr.userLevel_iff (q : Spr) : q.userLevel = true ↔ q ∈ [.xer, .lr, .ctr] := by
  cases q <;> simp [Spr.userLevel]

theorem Spr.userLevel_eq_false_iff (q : Spr) : q.userLevel = false ↔ q ∉ [.xer, .lr, .ctr] := by
  rw [← Spr.userLevel_iff, Bool.not_eq_true]

/-- The values no **mtspr** may write are all of supervisor-level registers. -/
theorem sprWriteRefusal_of_userLevel {q : Spr} (hq : q.userLevel = true) (s : State) (v : Word) :
    sprWriteRefusal s q v = none := by
  cases q with
  | xer | lr | ctr => rfl
  | _ => cases hq

section
variable {s : State} {n : SprNum} {q : Spr} (r : GprNum)

theorem exec_mfspr_of_supervisorLevel (hu : userMode s = true) (hn : readableSpr s.cfg n = some q)
    (hq : q.userLevel = false) : exec (.mfspr r n) s = raise (.program .privilegedInstruction) s := by
  simp [exec, execMfspr, hn, hu, hq]

/-- The level is checked before the value: not even a write the spec leaves undefined stops at user level. -/
theorem exec_mtspr_of_supervisorLevel (hu : userMode s = true) (hn : writableSpr s.cfg n = some q)
    (hq : q.userLevel = false) : exec (.mtspr n r) s = raise (.program .privilegedInstruction) s := by
  simp [exec, execMtspr, hn, hu, hq]

theorem exec_mfspr_of_userLevel (hn : readableSpr s.cfg n = some q) (hq : q.userLevel = true) :
    exec (.mfspr r n) s = .next (advance (writeGpr s r (readSpr s q))) := by
  simp [exec, execMfspr, hn, hq]

theorem exec_mtspr_of_userLevel (hn : writableSpr s.cfg n = some q) (hq : q.userLevel = true) :
    exec (.mtspr n r) s = .next (advance (writeSpr s q (readGpr s r))) := by
  simp [exec, execMtspr, hn, hq, sprWriteRefusal_of_userLevel hq]

end

/-- Settles O20: a register outside XER, LR and CTR traps at the level check, before its value is looked at; for these
three neither the level nor the value stops the move. -/
theorem supervisorSprsTrapAtUserLevel : Obligations.SupervisorSprsTrapAtUserLevel := by
  unfold Obligations.SupervisorSprsTrapAtUserLevel
  intro s r n q hu
  rw [← Spr.userLevel_eq_false_iff, ← Spr.userLevel_iff]
  exact ⟨exec_mfspr_of_supervisorLevel r hu, exec_mtspr_of_supervisorLevel r hu,
    fun hq hn => exec_mfspr_of_userLevel r hn hq, fun hq hn => exec_mtspr_of_userLevel r hn hq⟩

end Sys2Proof.Machine
end

section
/-! The system call (R346): **sc** enters its exception with the address of the instruction that follows. -/

namespace Sys2Proof.Machine

/-- The exception saves the next address, where the exceptions an instruction raises save its own (R334). -/
theorem exec_sc (s : State) : exec .sc s = enter .systemCall (nextPc s) s := rfl

/-- Settles O50: **sc** is the entry of its exception, and with MSR[ILE] = 0 no entry is refused. -/
theorem systemCallResult : Obligations.SystemCallResult := by
  unfold Obligations.SystemCallResult
  intro s
  exact ⟨exec_sc s, fun hile => (exec_sc s).trans (enter_of_big_endian hile _ _)⟩

end Sys2Proof.Machine
end

section
/-! Encoding and decoding (30_encoding.md): the rows of the opcode table exclude each other, the word of an instruction
matches its row and gives its operands back, and a word that matches a row has no bit outside the match and the operand
fields. -/

namespace Sys2Proof.Decode

/-! ## The rows of the table exclude each other -/

/-- In a list whose members exclude each other, `find?` gives the one member that satisfies the test. -/
theorem find?_eq_some_of_pairwise {α : Type} {p : α → Bool} {l : List α}
    (h : l.Pairwise fun a b => ¬(p a = true ∧ p b = true)) {x : α} (hx : x ∈ l) (hp : p x = true) :
    l.find? p = some x := by
  induction l with
  | nil => cases hx
  | cons a l ih =>
    rw [List.pairwise_cons] at h
    rcases List.mem_cons.1 hx with rfl | hx
    · exact List.find?_cons_of_pos hp
    · have ha : ¬p a = true := fun ha => h.1 x hx ⟨ha, hp⟩
      rw [List.find?_cons_of_neg ha, ih h.2 hx]

/-- The word has the row's primary and extended opcode. -/
def Row.opMatches (r : Row) (w : Word32) : Bool := w &&& r.opMask == r.pat &&& r.opMask

/-- Any two rows differ in an opcode bit that both have. -/
theorem table_opcodes_differ : table.Pairwise fun r q =>
    r.pat &&& r.opMask &&& q.opMask ≠ q.pat &&& q.opMask &&& r.opMask := by decide

theorem opMask_subset_mask : ∀ r ∈ table, r.mask &&& r.opMask = r.opMask := by decide

theorem table_opMatches_exclusive (w : Word32) :
    table.Pairwise fun r q => ¬(r.opMatches w = true ∧ q.opMatches w = true) := by
  refine table_opcodes_differ.imp fun {r q} hne ⟨hr, hq⟩ => hne ?_
  simp only [Row.opMatches, beq_iff_eq] at hr hq
  rw [← hr, ← hq, BitVec.and_assoc, BitVec.and_assoc, BitVec.and_comm r.opMask]

theorem opMatches_of_matches {r : Row} (hr : r ∈ table) {w : Word32} (h : r.matches w = true) :
    r.opMatches w = true := by
  simp only [Row.matches, Row.opMatches, beq_iff_eq] at h ⊢
  rw [← h, BitVec.and_assoc, opMask_subset_mask r hr]

theorem table_matches_exclusive (w : Word32) :
    table.Pairwise fun r q => ¬(r.matches w = true ∧ q.matches w = true) :=
  (table_opMatches_exclusive w).imp_of_mem fun hr hq hne ⟨h1, h2⟩ =>
    hne ⟨opMatches_of_matches hr h1, opMatches_of_matches hq h2⟩

theorem decode_of_matches {r : Row} (hr : r ∈ table) {w : Word32} (h : r.matches w = true) :
    decode w = .ok (r.build w) := by
  simp [decode, find?_eq_some_of_pairwise (table_matches_exclusive w) hr h]

theorem decode_of_no_match {w : Word32} (h : ∀ r ∈ table, w &&& r.mask ≠ r.pat) : decode w = .error (reject w) := by
  have hnone : table.find? (fun r => r.matches w) = none := by
    rw [List.find?_eq_none]
    intro r hr hm
    exact h r hr (beq_iff_eq.1 hm)
  simp [decode, hnone]

theorem reject_of_opMatches {r : Row} (hr : r ∈ table) {w : Word32} (h : r.opMatches w = true) :
    reject w = .reservedBitSet r.mnemonic := by
  have hfind : table.find? (fun q => w &&& q.opMask == q.pat &&& q.opMask) = some r :=
    find?_eq_some_of_pairwise (p := fun q => q.opMatches w) (table_opMatches_exclusive w) hr h
  simp [reject, hfind]

/-- A word with a row's opcode matches no other row. -/
theorem eq_of_opMatches {r q : Row} (hr : r ∈ table) (hq : q ∈ table) {w : Word32} (h1 : r.opMatches w = true)
    (h2 : q.opMatches w = true) : r = q := by
  have e1 := find?_eq_some_of_pairwise (table_opMatches_exclusive w) hr h1
  have e2 := find?_eq_some_of_pairwise (table_opMatches_exclusive w) hq h2
  exact Option.some.inj (e1.symm.trans e2)

/-- Settles O3: rows differ in their opcode bits, so a word with the opcode of one row can match no other; where it does
not match that row either, the first row with its opcode names the refusal. -/
theorem opcodeTableRows : Obligations.OpcodeTableRows := by
  unfold Obligations.OpcodeTableRows
  refine ⟨?_, fun r hr w hop hne => ?_⟩
  · refine List.pairwise_iff_getElem.2 fun i j hi hj hij w => ?_
    exact List.pairwise_iff_getElem.1 (table_matches_exclusive w) i j hi hj hij
  · have hr' : r.opMatches w = true := beq_iff_eq.2 hop
    rw [decode_of_no_match, reject_of_opMatches hr hr']
    intro q hq hm
    have hq' := opMatches_of_matches hq (beq_iff_eq.2 hm)
    exact hne (eq_of_opMatches hr hq hr' hq' ▸ hm)

/-! ## The word of an instruction gives its operands back -/

/-- The row of the table that an instruction belongs to. -/
def rowNumber : Instr → Fin 41
  | .mfspr .. => 0
  | .mtspr .. => 1
  | .mftb .. => 2
  | .mfmsr .. => 3
  | .mtmsr .. => 4
  | .mtmsrd .. => 5
  | .mtsr .. => 6
  | .mtsrin .. => 7
  | .mfsr .. => 8
  | .mfsrin .. => 9
  | .mcrf .. => 10
  | .mtcrf .. => 11
  | .mcrxr .. => 12
  | .mcrfs .. => 13
  | .mtfsfi .. => 14
  | .mtfsf .. => 15
  | .mtfsb0 .. => 16
  | .mtfsb1 .. => 17
  | .cmp .. => 18
  | .cmpi .. => 19
  | .cmpl .. => 20
  | .cmpli .. => 21
  | .b .. => 22
  | .bc .. => 23
  | .bclr .. => 24
  | .bcctr .. => 25
  | .sc => 26
  | .rfi => 27
  | .rfid => 28
  | .sync => 29
  | .isync => 30
  | .eciwx .. => 31
  | .ecowx .. => 32
  | .slbie .. => 33
  | .slbia => 34
  | .tlbie .. => 35
  | .tlbia => 36
  | .addi .. => 37
  | .lwz .. => 38
  | .lswx .. => 39
  | .stswx .. => 40

def rowOf (i : Instr) : Row := table[(rowNumber i).val]'(rowNumber i).isLt

theorem rowOf_mem (i : Instr) : rowOf i ∈ table := List.getElem_mem _

/-- Bits of the word outside every operand field are the row's match: each field lies off the mask. -/
theorem encode_matches (i : Instr) : (rowOf i).matches (encode i) = true := by
  rw [Row.matches, beq_iff_eq]
  cases i <;>
    simp (disch := decide) [rowOf, rowNumber, table, rowsSpr, rowsMsr, rowsCr, rowsCompare, rowsBranch, rowsSystem,
      rowsLoadStore, encode, putSpr, putBit, or_and_mask, put_and]

theorem bitAt_or (i : Nat) (a b : Word32) : bitAt i (a ||| b) = (bitAt i a || bitAt i b) := BitVec.getLsbD_or

/-- A flag is read back from its place. -/
theorem bitAt_put_same (i : Nat) (v : Bool) (h : i < 32) : bitAt i (put i (BitVec.ofBool v)) = v := by
  simp only [bitAt, getLsbD_put, h]; simp

/-- A place outside a field reads as zero. -/
theorem bitAt_put_other {n : Nat} (i lo : Nat) (v : BitVec n) (h : i < lo ∨ lo + n ≤ i) :
    bitAt i (put lo v) = false := by
  rw [bitAt, getLsbD_put]
  rcases h with h | h
  · simp [show ¬lo ≤ i by omega]
  · simp [BitVec.getLsbD_of_ge v (i - lo) (by omega)]

theorem fieldSpr_or (a b : Word32) : fieldSpr (a ||| b) = fieldSpr a ||| fieldSpr b := by
  apply BitVec.eq_of_getLsbD_eq
  intro i hi
  simp only [fieldSpr, fieldA, fieldB, field_or, BitVec.getLsbD_or, BitVec.getLsbD_shiftLeft, BitVec.getLsbD_setWidth]
  grind

/-- The two halves of an SPR number come back in order (R154). -/
theorem fieldSpr_putSpr (n : SprNum) : fieldSpr (putSpr n) = n := by
  have hA : fieldA (putSpr n) = n.extractLsb' 0 5 := by
    simp (disch := decide) [fieldA, putSpr, field_or, field_put_same, field_put_other]
  have hB : fieldB (putSpr n) = n.extractLsb' 5 5 := by
    simp (disch := decide) [fieldB, putSpr, field_or, field_put_same, field_put_other]
  apply BitVec.eq_of_getLsbD_eq
  intro i hi
  rw [fieldSpr, hA, hB]
  by_cases h : i < 5
  · simp [hi, h]
  · simp [hi, h, show i - 5 < 5 by omega, show 5 + (i - 5) = i by omega]

theorem field_putSpr (n : SprNum) : field 21 5 (putSpr n) = 0 := by
  simp (disch := decide) [putSpr, field_or, field_put_other]

theorem fieldSpr_put (v : BitVec 5) : fieldSpr (put 21 v) = 0 := by
  simp (disch := decide) [fieldSpr, fieldA, fieldB, field_put_other]

/-- Each operand is read back from its own field, and no other field or bit of the match reaches into it. -/
theorem build_encode (i : Instr) : (rowOf i).build (encode i) = i := by
  cases i <;>
    simp (disch := decide) [rowOf, rowNumber, table, rowsSpr, rowsMsr, rowsCr, rowsCompare, rowsBranch, rowsSystem,
      rowsLoadStore, encode, putBit, fieldD, fieldA, fieldB, field_or, field_put_same, field_put_other, bitAt_or,
      bitAt_put_same, bitAt_put_other, fieldSpr_or, fieldSpr_putSpr, fieldSpr_put, field_putSpr] <;>
    simp [field, bitAt, fieldSpr, fieldA, fieldB]

/-- Settles O1: the word matches the instruction's row and no other, and the row reads its operands back. -/
theorem everyEncodingDecodesBack : Obligations.EveryEncodingDecodesBack := by
  unfold Obligations.EveryEncodingDecodesBack
  intro i
  rw [decode_of_matches (rowOf_mem i) (encode_matches i), build_encode i]

/-- Settles O4: each word is the encoding of its instruction. -/
theorem workedExampleWordsDecode : Obligations.WorkedExampleWordsDecode := by
  unfold Obligations.WorkedExampleWordsDecode
  exact ⟨everyEncodingDecodesBack (.mftb 3 268), everyEncodingDecodesBack (.mtspr 22 3),
    everyEncodingDecodesBack (.bc 4 2 0x3FFD false false), everyEncodingDecodesBack (.mtfsf 0xFF 1 false),
    everyEncodingDecodesBack (.lswx 5 0 4), everyEncodingDecodesBack (.mtcrf 0x81 3),
    everyEncodingDecodesBack (.mtsr 5 4), everyEncodingDecodesBack (.addi 3 3 0xFFFF),
    everyEncodingDecodesBack (.cmpli 7 false 3 0x10)⟩

/-! ## A word that decodes has no bit outside its row's match and operand fields -/

/-- A field of a word, put back in its place: the word's bits there. -/
theorem put_field (lo len : Nat) (w : Word32) : put lo (field lo len w) = w &&& put lo (BitVec.allOnes len) := by
  apply BitVec.eq_of_getLsbD_eq
  intro i hi
  simp only [getLsbD_put, field, BitVec.getLsbD_extractLsb', BitVec.getLsbD_and, BitVec.getLsbD_allOnes]
  by_cases h : lo ≤ i
  · rw [Nat.add_sub_cancel' h, Bool.and_comm (w.getLsbD i)]
    ac_rfl
  · simp [h]

theorem putBit_bitAt (i : Nat) (w : Word32) : putBit i (bitAt i w) = w &&& put i (BitVec.allOnes 1) := by
  have h : BitVec.ofBool (bitAt i w) = field i 1 w := by
    apply BitVec.eq_of_getLsbD_eq
    intro j hj
    have h0 : j = 0 := by omega
    subst h0
    simp only [bitAt, field, BitVec.getLsbD_ofBool, BitVec.getLsbD_extractLsb']
    simp
  rw [putBit, h, put_field]

theorem putSpr_fieldSpr (w : Word32) : putSpr (fieldSpr w) = w &&& 0x001FF800 := by
  have hA : (fieldSpr w).extractLsb' 0 5 = fieldA w := by
    apply BitVec.eq_of_getLsbD_eq
    intro i hi
    simp [fieldSpr, hi, show i < 10 by omega]
  have hB : (fieldSpr w).extractLsb' 5 5 = fieldB w := by
    apply BitVec.eq_of_getLsbD_eq
    intro i hi
    simp [fieldSpr, hi, show 5 + i < 10 by omega]
  rw [putSpr, hA, hB, fieldA, fieldB, put_field, put_field, ← BitVec.and_or_distrib_left]
  rfl

theorem or_not_self_mask (m : Word32) : m ||| ~~~m = BitVec.allOnes 32 := by
  apply BitVec.eq_of_getLsbD_eq
  intro i hi
  simp [hi]

theorem or_operands (p w m n : Word32) : p ||| w &&& m ||| w &&& n = p ||| w &&& (m ||| n) := by
  rw [BitVec.or_assoc, BitVec.and_or_distrib_left]

/-- The word of what a row reads from `w`: the row's match, and from `w` the bits off the row's mask. -/
theorem encode_build (w : Word32) : ∀ r ∈ table, encode (r.build w) = r.pat ||| w &&& ~~~r.mask := by
  simp [table, rowsSpr, rowsMsr, rowsCr, rowsCompare, rowsBranch, rowsSystem, rowsLoadStore, encode, fieldD, fieldA,
    fieldB, put_field, putBit_bitAt, putSpr_fieldSpr, or_operands]
  simp [put]

/-- Settles O2: the row's mask covers the bits of `w` that the match fixes, the operands are all the others. -/
theorem everyDecodedWordIsItsEncoding : Obligations.EveryDecodedWordIsItsEncoding := by
  unfold Obligations.EveryDecodedWordIsItsEncoding
  intro w i h
  unfold decode at h
  split at h
  · next r hr =>
    have hm : w &&& r.mask = r.pat := by simpa [Row.matches] using List.find?_some hr
    cases h
    rw [encode_build w r (List.mem_of_find?_eq_some hr), ← hm, ← BitVec.and_or_distrib_left, or_not_self_mask,
      BitVec.and_allOnes]
  · cases h

end Sys2Proof.Decode
end

section
/-! Widths, alignment and single bits: facts about the masks of the MSR and about the values that operations store. -/

namespace Sys2Proof.Machine

open Sys2Proof.Config

/-! ## Masks, bit by bit -/

/-- A mask whose one bits are listed. -/
theorem getLsbD_of_bits {n : Nat} {v : BitVec n} {ks : List Nat} (hks : ∀ k ∈ ks, k < n)
    (h : ∀ k < n, v.getLsbD k = decide (k ∈ ks)) (k : Nat) : v.getLsbD k = decide (k ∈ ks) := by
  by_cases hk : k < n
  · exact h k hk
  · have hnot : k ∉ ks := fun hm => hk (hks k hm)
    simp [BitVec.getLsbD_of_ge v k (Nat.le_of_not_lt hk), hnot]

theorem and_not_eq_zero_iff {n : Nat} (w m : BitVec n) :
    w &&& ~~~m = 0 ↔ ∀ k, w.getLsbD k = true → m.getLsbD k = true := by
  rw [BitVec.eq_of_getLsbD_eq_iff]
  refine ⟨fun h k hw => ?_, fun h k hk => ?_⟩
  · have := h k (BitVec.lt_of_getLsbD hw)
    simpa [hw, BitVec.lt_of_getLsbD hw] using this
  · cases hw : w.getLsbD k
    · simp [hw]
    · simp [h k hw]

theorem getLsbD_entryClears (k : Nat) :
    entryClears.getLsbD k = decide (k ∈ [18, 15, 14, 13, 11, 10, 9, 8, 5, 4, 1]) :=
  getLsbD_of_bits (by decide) (by decide) k

theorem getLsbD_one_word (k : Nat) : (1 : Word).getLsbD k = decide (k = 0) :=
  (getLsbD_of_bits (ks := [0]) (by decide) (by decide) k).trans (by simp)

theorem getLsbD_bit63 (k : Nat) : (0x8000000000000000 : Word).getLsbD k = decide (k = 63) :=
  (getLsbD_of_bits (ks := [63]) (by decide) (by decide) k).trans (by simp)

theorem getLsbD_bit12 (k : Nat) : (0x1000 : Word).getLsbD k = decide (k = 12) :=
  (getLsbD_of_bits (ks := [12]) (by decide) (by decide) k).trans (by simp)

theorem getLsbD_windowedBits (p : Params) (k : Nat) :
    (windowedBits p).getLsbD k = (decide (k ∈ [63, 14, 13, 12, 11, 8, 5, 4]) || (p.hasSe && decide (k = 10)) ||
      (p.hasBe && decide (k = 9))) := by
  have base : (0x8000000000007930#64).getLsbD k = decide (k ∈ [63, 14, 13, 12, 11, 8, 5, 4]) :=
    getLsbD_of_bits (by decide) (by decide) k
  have se : (0x0400#64).getLsbD k = decide (k ∈ [10]) := getLsbD_of_bits (by decide) (by decide) k
  have be : (0x0200#64).getLsbD k = decide (k ∈ [9]) := getLsbD_of_bits (by decide) (by decide) k
  rw [windowedBits, BitVec.getLsbD_or, BitVec.getLsbD_or]
  cases p.hasSe <;> cases p.hasBe <;> simp [base, se, be]

/-! ## The width of a register -/

theorem fitsWidth_iff (p : Params) (v : Word) :
    fitsWidth p v ↔ (is64 p = false → ∀ k, 32 ≤ k → v.getLsbD k = false) := by
  rw [fitsWidth, BitVec.eq_of_getLsbD_eq_iff]
  refine ⟨fun h hp k hk => ?_, fun h k _ => ?_⟩
  · by_cases hk64 : k < 64
    · have := h k hk64
      simpa [getLsbD_toWidth, hp, show ¬k < 32 by omega] using this.symm
    · exact BitVec.getLsbD_of_ge v k (by omega)
  · rw [getLsbD_toWidth]
    by_cases hk : k < 32
    · simp [hk]
    · cases hp : is64 p
      · simp [h hp k (by omega)]
      · simp

theorem fitsWidth_of_is64 {p : Params} (h : is64 p = true) (v : Word) : fitsWidth p v := if_pos h

theorem fitsWidth_toWidth (p : Params) (v : Word) : fitsWidth p (toWidth p v) := by
  rw [fitsWidth_iff]
  intro hp k hk
  simp [getLsbD_toWidth, hp, show ¬k < 32 by omega]

theorem fitsWidth_low32 (p : Params) (v : Word) : fitsWidth p (low32 v) := by
  rw [fitsWidth_iff]
  intro _ k hk
  simp [getLsbD_low32, show ¬k < 32 by omega]

theorem fitsWidth_effective (s : State) (a : Word) : fitsWidth s.cfg (effective s a) := by
  unfold effective
  split
  · next h => exact fitsWidth_of_is64 (Bool.and_eq_true_iff.1 h).1 _
  · exact fitsWidth_low32 _ _

theorem fitsWidth_merge {p : Params} {a b : Word} (ha : fitsWidth p a) (hb : fitsWidth p b) (m : Word) :
    fitsWidth p (merge a b m) := by
  rw [fitsWidth_iff] at ha hb ⊢
  intro hp k hk
  simp [getLsbD_merge, ha hp k hk, hb hp k hk]

/-! ## Alignment -/

theorem and_three_eq_zero_iff (a : Word) : a &&& 3 = 0 ↔ a.toNat % 4 = 0 := by
  have h : (a &&& 3).toNat = a.toNat % 4 := by
    rw [BitVec.toNat_and]; exact Nat.and_two_pow_sub_one_eq_mod _ 2
  rw [← h]
  exact ⟨fun e => congrArg BitVec.toNat e, fun e => BitVec.eq_of_toNat_eq e⟩

theorem low32_aligned_iff (a : Word) : low32 a &&& 3 = 0 ↔ a &&& 3 = 0 := by
  rw [and_three_eq_zero_iff, and_three_eq_zero_iff, low32_toNat]
  omega

theorem toWidth_aligned_iff (p : Params) (a : Word) : toWidth p a &&& 3 = 0 ↔ a &&& 3 = 0 := by
  unfold toWidth
  split
  · rfl
  · exact low32_aligned_iff a

theorem effective_aligned_iff (s : State) (a : Word) : effective s a &&& 3 = 0 ↔ a &&& 3 = 0 := by
  unfold effective
  split
  · rfl
  · exact low32_aligned_iff a

theorem add_aligned {a b : Word} (ha : a &&& 3 = 0) (hb : b &&& 3 = 0) : a + b &&& 3 = 0 := by
  rw [and_three_eq_zero_iff] at *
  rw [BitVec.toNat_add]
  omega

theorem shiftLeft_two_aligned (a : Word) : a <<< 2 &&& 3 = 0 := by
  rw [and_three_eq_zero_iff, BitVec.toNat_shiftLeft, Nat.shiftLeft_eq]
  omega

theorem clearLow2_aligned (a : Word) : clearLow2 a &&& 3 = 0 := by
  rw [clearLow2, BitVec.and_assoc]
  exact BitVec.and_zero

/-- An aligned address has no low-order bits to clear. -/
theorem clearLow2_of_aligned {a : Word} (h : a &&& 3 = 0) : clearLow2 a = a := by
  have e : (0xFFFFFFFFFFFFFFFC : Word) = ~~~3 := by decide
  have hk := fun k => congrArg (fun v : Word => v.getLsbD k) h
  apply BitVec.eq_of_getLsbD_eq
  intro k hlt
  have := hk k
  simp only [BitVec.getLsbD_and, BitVec.ofNat_eq_ofNat, BitVec.getLsbD_zero] at this
  rw [clearLow2, e, BitVec.getLsbD_and, BitVec.getLsbD_not]
  cases ha : a.getLsbD k <;> simp_all

theorem nextPc_aligned {s : State} (h : s.pc &&& 3 = 0) : nextPc s &&& 3 = 0 := by
  rw [nextPc, effective_aligned_iff]
  exact add_aligned h (by decide)

theorem relativeTarget_aligned {s : State} (h : s.pc &&& 3 = 0) (aa : Bool) {d : Word} (hd : d &&& 3 = 0) :
    relativeTarget s aa d &&& 3 = 0 := by
  rw [relativeTarget, effective_aligned_iff]
  cases aa
  · exact add_aligned h hd
  · exact add_aligned (a := 0) (by decide) hd

theorem registerTarget_aligned (s : State) (a : Word) : registerTarget s a &&& 3 = 0 := by
  rw [registerTarget, effective_aligned_iff]
  exact clearLow2_aligned a

theorem vector_aligned (p : Params) (m : Word) (e : Exception) : vector p m e &&& 3 = 0 := by
  rw [vector, toWidth_aligned_iff]
  cases msrIP m <;> cases e <;> simp [Exception.offset]

/-! ## The modes the model supports -/

theorem unsupportedMsr_eq_none_iff (p : Params) (m : Word) :
    unsupportedMsr p m = none ↔ (p.hasPow = true → m.getLsbD 18 = false) ∧ m.getLsbD 0 = false ∧
      m.getLsbD 5 = false ∧ m.getLsbD 4 = false := by
  unfold unsupportedMsr msrPOW msrLE msrIR msrDR
  split_ifs <;> simp_all [-BitVec.getLsbD_eq_getElem]
  next h => exact fun h5 => h.resolve_left (h5 ▸ Bool.false_ne_true)

/-! ## The MSR that exception entry establishes (R330) -/

theorem getLsbD_entryMsr (p : Params) (e : Exception) (m : Word) (k : Nat) :
    (entryMsr p e m).getLsbD k =
      if k = 63 ∧ is64 p = true then (if hasBridge p then m.getLsbD 61 else true)
      else if k = 0 then m.getLsbD 16
      else m.getLsbD k && !decide (k ∈ [18, 15, 14, 13, 11, 10, 9, 8, 5, 4, 1]) &&
        !(decide (k = 12) && decide (e = .machineCheck)) := by
  have cleared : (m &&& ~~~(entryClears ||| (if e = .machineCheck then 0x1000 else 0))).getLsbD k =
      (m.getLsbD k && !decide (k ∈ [18, 15, 14, 13, 11, 10, 9, 8, 5, 4, 1]) &&
        !(decide (k = 12) && decide (e = .machineCheck))) := by
    rw [BitVec.getLsbD_and, BitVec.getLsbD_not, BitVec.getLsbD_or, getLsbD_entryClears]
    by_cases hk : k < 64
    · by_cases he : e = .machineCheck
      · simp only [he, if_true, getLsbD_bit12, hk, decide_true, Bool.true_and, Bool.and_true]
        rw [Bool.not_or, Bool.and_assoc]
      · simp [he, hk]
    · simp [BitVec.getLsbD_of_ge m k (by omega)]
  unfold entryMsr
  cases hp : is64 p
  · simp only [Bool.false_eq_true, if_false, and_false, getLsbD_withBits, getLsbD_one_word, cleared,
      decide_eq_true_eq, msrILE]
  · simp only [if_true, and_true, getLsbD_withBits, getLsbD_one_word, getLsbD_bit63, cleared, decide_eq_true_eq,
      msrILE, msrISF]

theorem entryMsr_supported {p : Params} {m : Word} (h : msrILE m = false) (e : Exception) :
    unsupportedMsr p (entryMsr p e m) = none := by
  rw [unsupportedMsr_eq_none_iff]
  simpa [-BitVec.getLsbD_eq_getElem, getLsbD_entryMsr, msrILE] using h

theorem fitsWidth_entryMsr {p : Params} {m : Word} (h : fitsWidth p m) (e : Exception) :
    fitsWidth p (entryMsr p e m) := by
  rw [fitsWidth_iff] at h ⊢
  intro hp k hk
  simp [getLsbD_entryMsr, hp, h hp k hk, show k ≠ 0 by omega]

/-- A reserved bit that is read holds a one: what is read fits where what is stored does. -/
theorem fitsWidth_visibleMsr {s : State} (h : fitsWidth s.cfg s.msr) : fitsWidth s.cfg (visibleMsr s) := by
  rw [fitsWidth_iff] at h ⊢
  intro hp k hk
  simp [visibleMsr, getLsbD_readReserved, h hp k hk]

theorem getLsbD_info_of_ge (e : Exception) {k : Nat} (hk : 21 ≤ k) : e.info.getLsbD k = false := by
  have small : e.info.toNat < 2 ^ 21 := by
    cases e with
    | program c => cases c <;> decide
    | _ => decide
  exact Nat.testBit_lt_two_pow (small.trans_le (Nat.pow_le_pow_right (by decide) hk))

theorem fitsWidth_savedSrr1 {s : State} (h : fitsWidth s.cfg s.msr) (e : Exception) :
    fitsWidth s.cfg (savedSrr1 e s) := by
  have hv := fitsWidth_visibleMsr h
  rw [fitsWidth_iff] at hv ⊢
  intro hp k hk
  simp [savedSrr1, hv hp k hk, getLsbD_info_of_ge e (show 21 ≤ k by omega)]

end Sys2Proof.Machine
end

section
/-! The invariant of the model: each operation that writes the state keeps it, so each instruction, each exception, each
boundary and each step does. -/

namespace Sys2Proof.Machine

open Sys2Proof.Config

/-! ## Operations that the invariant does not look at -/

/-- The registers that the invariant says nothing of. -/
theorem inv_of_rest {s t : State} (h : s.Inv)
    (ht : t = { s with
      fpr := t.fpr, cr := t.cr, xer := t.xer, tb := t.tb, dec := t.dec, decPending := t.decPending, sr := t.sr,
      dsisr := t.dsisr, ear := t.ear, fpecr := t.fpecr, pir := t.pir, windows := t.windows,
      storedSince := t.storedSince, inputs := t.inputs, deviceIn := t.deviceIn, deviceOut := t.deviceOut,
      excCount := t.excCount, freeCtr := t.freeCtr })
    (hw : t.windows.msr = s.windows.msr) : t.Inv := by
  rw [ht]
  refine ⟨h.memory, ?_, h.aligned, h.fpscr, h.supported, ?_, h.ibat⟩
  · exact ⟨h.fits.gpr, h.fits.lr, h.fits.ctr, h.fits.pc, h.fits.msr, h.fits.ibat, h.fits.dbat, h.fits.sdr1,
      h.fits.asr, h.fits.dar, h.fits.sprg, h.fits.srr0, h.fits.srr1, h.fits.dabr⟩
  · simpa only [hw] using h.windows

theorem inv_contextSync {s : State} (h : s.Inv) : (contextSync s).Inv :=
  ⟨h.memory, { h.fits with }, h.aligned, h.fpscr, h.supported, BitVec.zero_and, h.ibat⟩

theorem inv_drawFree {s : State} (h : s.Inv) : (drawFree s).Inv := inv_of_rest h rfl rfl

theorem inv_cancelRequest {s : State} (h : s.Inv) : State.Inv { s with decPending := false } := inv_of_rest h rfl rfl

/-! ## Registers -/

theorem inv_setPc {s : State} (h : s.Inv) {a : Word} (hf : fitsWidth s.cfg a) (ha : a &&& 3 = 0) :
    State.Inv { s with pc := a } :=
  ⟨h.memory, { h.fits with pc := hf }, ha, h.fpscr, h.supported, h.windows, h.ibat⟩

theorem inv_advance {s : State} (h : s.Inv) : (advance s).Inv :=
  inv_setPc h (fitsWidth_effective _ _) (nextPc_aligned h.aligned)

theorem inv_writeGpr {s : State} (h : s.Inv) (r : GprNum) (v : Word) : (writeGpr s r v).Inv := by
  refine ⟨h.memory, { h.fits with gpr := fun q => ?_ }, h.aligned, h.fpscr, h.supported, h.windows, h.ibat⟩
  by_cases hq : q = r
  · rw [hq, readGpr_writeGpr_same]
    exact fitsWidth_toWidth _ _
  · rw [readGpr_writeGpr_other _ _ hq]
    exact h.fits.gpr q

theorem inv_loadString {s : State} (h : s.Inv) (rD : GprNum) (ea : Word) (n : Nat) : (loadString s rD ea n).Inv := by
  unfold loadString
  induction stringRegs n with
  | zero => exact h
  | succ m ih =>
    rw [List.range_succ, List.foldl_append]
    exact inv_writeGpr ih _ _

theorem inv_storeBytes {s : State} (h : s.Inv) (ea : Word) (n : Nat) (f : Nat → Byte) : (storeBytes s ea n f).Inv :=
  ⟨memWriteAll_wf _ h.memory, { h.fits with }, h.aligned, h.fpscr, h.supported, h.windows, h.ibat⟩

theorem inv_setFpscr {s : State} (h : s.Inv) {f : Word32} (hf : f &&& fpscrComputedBits = 0) :
    State.Inv { s with fpscr := f } :=
  ⟨h.memory, { h.fits with }, h.aligned, hf, h.supported, h.windows, h.ibat⟩

theorem inv_branchTo {s : State} (h : s.Inv) {ctr target : Word} (lk taken : Bool) (hc : fitsWidth s.cfg ctr)
    (ht : fitsWidth s.cfg target) (ha : target &&& 3 = 0) : (branchTo s ctr lk taken target).Inv := by
  have hn : fitsWidth s.cfg (nextPc s) := fitsWidth_effective _ _
  have hl : fitsWidth s.cfg (linked s lk) := by cases lk <;> [exact h.fits.lr; exact hn]
  have hp : fitsWidth s.cfg (if taken then target else nextPc s) := by cases taken <;> [exact hn; exact ht]
  have hpa : (if taken then target else nextPc s) &&& 3 = 0 := by
    cases taken <;> [exact nextPc_aligned h.aligned; exact ha]
  exact ⟨h.memory, { h.fits with ctr := hc, lr := hl, pc := hp }, hpa, h.fpscr, h.supported, h.windows, h.ibat⟩

theorem fitsWidth_branchCtr {s : State} (h : s.Inv) (bo : BitVec 5) : fitsWidth s.cfg (branchCtr s bo) := by
  unfold branchCtr
  split
  · exact h.fits.ctr
  · exact fitsWidth_toWidth _ _

/-! ## Special-purpose registers -/

/-- What holds of every register of a group and of a new value holds of every register after the value is written. -/
theorem vector_set_forall {n : Nat} {P : Fin n → Word → Prop} {v : Vector Word n} (h : ∀ i : Fin n, P i v[i.val])
    (j : Fin n) {x : Word} (hx : P j x) (i : Fin n) : P i ((v.set j.val x j.isLt)[i.val]) := by
  by_cases hij : j.val = i.val
  · obtain rfl := Fin.ext hij
    simpa using hx
  · simpa [Vector.getElem_set, hij] using h i

/-- The bits that no IBATnL may hold are not created by a narrower write. -/
theorem toWidth_and_eq_zero {p : Params} {v m : Word} (h : v &&& m = 0) : toWidth p v &&& m = 0 := by
  rw [BitVec.eq_of_getLsbD_eq_iff] at h ⊢
  intro k hk
  have := h k hk
  simp only [BitVec.getLsbD_and, getLsbD_toWidth, BitVec.ofNat_eq_ofNat, BitVec.getLsbD_zero] at this ⊢
  rw [Bool.and_assoc, this, Bool.and_false]

theorem writableSpr_present {p : Params} {n : SprNum} {r : Spr} (h : writableSpr p n = some r) :
    sprPresent p r = true := (Bool.and_eq_true_iff.1 (Option.filter_eq_some_iff.1 h).2).1

theorem inv_writeSpr {s : State} (h : s.Inv) {r : Spr} {v : Word} (hp : sprPresent s.cfg r = true)
    (hv : sprWriteRefusal s r v = none) : (writeSpr s r v).Inv := by
  have hw : fitsWidth s.cfg (toWidth s.cfg v) := fitsWidth_toWidth _ _
  cases r with
  | xer | dsisr | dec | ear | tbl | tbu | fpecr | pir => exact inv_of_rest h rfl rfl
  | pvr => exact h
  | lr => exact ⟨h.memory, { h.fits with lr := hw }, h.aligned, h.fpscr, h.supported, h.windows, h.ibat⟩
  | ctr => exact ⟨h.memory, { h.fits with ctr := hw }, h.aligned, h.fpscr, h.supported, h.windows, h.ibat⟩
  | dar => exact ⟨h.memory, { h.fits with dar := hw }, h.aligned, h.fpscr, h.supported, h.windows, h.ibat⟩
  | srr0 => exact ⟨h.memory, { h.fits with srr0 := hw }, h.aligned, h.fpscr, h.supported, h.windows, h.ibat⟩
  | srr1 => exact ⟨h.memory, { h.fits with srr1 := hw }, h.aligned, h.fpscr, h.supported, h.windows, h.ibat⟩
  | dabr => exact ⟨h.memory, { h.fits with dabr := hw }, h.aligned, h.fpscr, h.supported, h.windows, h.ibat⟩
  | sdr1 => exact ⟨h.memory, { h.fits with sdr1 := hw }, h.aligned, h.fpscr, h.supported, h.windows, h.ibat⟩
  | asr =>
    have ha : fitsWidth s.cfg v := fitsWidth_of_is64 hp v
    exact ⟨h.memory, { h.fits with asr := ha }, h.aligned, h.fpscr, h.supported, h.windows, h.ibat⟩
  | sprg i =>
    have hs := vector_set_forall (P := fun _ => fitsWidth s.cfg) h.fits.sprg i hw
    exact ⟨h.memory, { h.fits with sprg := hs }, h.aligned, h.fpscr, h.supported, h.windows, h.ibat⟩
  | dbat i =>
    have hs := vector_set_forall (P := fun _ => fitsWidth s.cfg) h.fits.dbat i hw
    exact ⟨h.memory, { h.fits with dbat := hs }, h.aligned, h.fpscr, h.supported, h.windows, h.ibat⟩
  | ibat i =>
    have hs := vector_set_forall (P := fun _ => fitsWidth s.cfg) h.fits.ibat i hw
    have hwg : i.val % 2 = 1 → toWidth s.cfg v &&& 0x48 = 0 := fun hi => by
      refine toWidth_and_eq_zero (of_not_not fun hne => ?_)
      have hne' : v &&& 72#64 ≠ 0#64 := hne
      simp [sprWriteRefusal, hi, hne'] at hv
    have hb := vector_set_forall (P := fun i v => i.val % 2 = 1 → v &&& 0x48 = 0) h.ibat i hwg
    exact ⟨h.memory, { h.fits with ibat := hs }, h.aligned, h.fpscr, h.supported, h.windows, hb⟩

/-! ## The MSR -/

/-- Where a window of the MSR is open: at a bit of R404 other than IR and DR. -/
theorem windows_iff (p : Params) (w : Word) : w &&& ~~~(windowedBits p &&& ~~~0x30) = 0 ↔
    ∀ k, w.getLsbD k = true → (windowedBits p).getLsbD k = true ∧ k ≠ 5 ∧ k ≠ 4 := by
  have h30 (k : Nat) : (0x30 : Word).getLsbD k = decide (k ∈ [5, 4]) := getLsbD_of_bits (by decide) (by decide) k
  rw [and_not_eq_zero_iff]
  refine forall₂_congr fun k hk => ?_
  rw [BitVec.getLsbD_and, BitVec.getLsbD_not, h30]
  simp [BitVec.lt_of_getLsbD hk]

theorem inv_writeMsr {s : State} (h : s.Inv) {m : Word} (hf : fitsWidth s.cfg m)
    (hm : unsupportedMsr s.cfg m = none) : (writeMsr s m).Inv := by
  refine ⟨h.memory, { h.fits with msr := hf }, h.aligned, h.fpscr, hm, ?_, h.ibat⟩
  have hw := (windows_iff _ _).1 h.windows
  obtain ⟨-, -, s5, s4⟩ := (unsupportedMsr_eq_none_iff _ _).1 h.supported
  obtain ⟨-, -, m5, m4⟩ := (unsupportedMsr_eq_none_iff _ _).1 hm
  refine (windows_iff _ _).2 fun k hk => ?_
  simp only [writeMsr_windows, BitVec.getLsbD_or, BitVec.getLsbD_and, BitVec.getLsbD_xor, Bool.or_eq_true,
    Bool.and_eq_true] at hk
  rcases hk with hk | ⟨hx, hb⟩
  · exact hw k hk
  · refine ⟨hb, ?_, ?_⟩ <;> rintro rfl
    · rw [s5, m5] at hx; cases hx
    · rw [s4, m4] at hx; cases hx

theorem fitsWidth_mtmsrValue {s : State} (v : Word) : fitsWidth s.cfg (mtmsrValue s v) := by
  unfold mtmsrValue
  split
  · next h => exact fitsWidth_of_is64 h _
  · exact fitsWidth_low32 _ _

theorem inv_returnFromException {s t : State} (h : s.Inv) {mask : Word} (ht : returnFromException mask s = .next t) :
    t.Inv := by
  obtain ⟨hm, rfl⟩ := returnFromException_next ht
  have hmsr : fitsWidth s.cfg (merge s.msr s.srr1 mask) := fitsWidth_merge h.fits.msr h.fits.srr1 mask
  have inv_of_pc {a : Word} (hf : fitsWidth s.cfg a) (ha : a &&& 3 = 0) :
      State.Inv { s with msr := merge s.msr s.srr1 mask, pc := a } :=
    ⟨h.memory, { h.fits with msr := hmsr, pc := hf }, ha, h.fpscr, hm, h.windows, h.ibat⟩
  refine inv_contextSync (inv_of_pc ?_ ?_) <;> split
  · next hw => exact fitsWidth_of_is64 (Bool.and_eq_true_iff.1 hw).1 _
  · exact fitsWidth_low32 _ _
  · exact clearLow2_aligned _
  · exact (low32_aligned_iff _).2 (clearLow2_aligned _)

/-! ## Exceptions -/

theorem inv_entered {s : State} (h : s.Inv) (hile : msrILE s.msr = false) (e : Exception) (a : Word) :
    (entered e a s).Inv := by
  have h0 : fitsWidth s.cfg (effective s a) := fitsWidth_effective _ _
  have h1 : fitsWidth s.cfg (savedSrr1 e s) := fitsWidth_savedSrr1 h.fits.msr e
  have hm : fitsWidth s.cfg (entryMsr s.cfg e s.msr) := fitsWidth_entryMsr h.fits.msr e
  have hv : fitsWidth s.cfg (vector s.cfg s.msr e) := fitsWidth_toWidth _ _
  rw [entered_eq]
  refine ⟨h.memory, { h.fits with srr0 := h0, srr1 := h1, msr := hm, pc := hv }, vector_aligned _ _ _, h.fpscr,
    entryMsr_supported hile e, ?_, h.ibat⟩
  cases synchronizes e s <;> [exact h.windows; exact BitVec.zero_and]

theorem inv_setDar {s : State} (h : s.Inv) (ea : Word) (v : Word32) :
    State.Inv { s with dar := effective s ea, dsisr := v } :=
  ⟨h.memory, { h.fits with dar := fitsWidth_effective _ _ }, h.aligned, h.fpscr, h.supported, h.windows, h.ibat⟩

theorem inv_enter {s t : State} (h : s.Inv) {e : Exception} {a : Word} (ht : enter e a s = .next t) : t.Inv := by
  obtain ⟨hile, rfl⟩ := enter_next ht
  exact inv_entered h hile e a

theorem inv_tookException {s t : State} (h : s.Inv) (ht : TookException s t) : t.Inv := by
  obtain ⟨e, a, u, hile, rfl, rfl | ⟨k, c, ea, rfl⟩ | ⟨ea, rfl⟩⟩ := ht
  · exact inv_entered h hile e a
  · exact inv_entered (inv_setDar h ea _) hile e a
  · exact inv_entered (inv_setDar h ea _) hile e a

/-! ## Instructions -/

theorem inv_completes {i : Instr} {s t : State} (h : s.Inv) (hc : Completes s i t) : t.Inv := by
  cases hc with
  | mfspr | mftb | mfmsr | mfsr | mfsrin | eciwx | addi | lwz | lswxEmpty => exact inv_advance (inv_writeGpr h _ _)
  | mtspr hr _ hv => exact inv_advance (inv_writeSpr h (writableSpr_present hr) hv)
  | mtmsr _ hm =>
    have hw := inv_writeMsr h (fitsWidth_mtmsrValue _) hm
    exact inv_setPc hw (fitsWidth_effective s _) (nextPc_aligned h.aligned)
  | mtmsrd hp _ hm =>
    have hw := inv_writeMsr h (fitsWidth_of_is64 hp _) hm
    exact inv_setPc hw (fitsWidth_effective s _) (nextPc_aligned h.aligned)
  | mtsr | mtsrin | mcrf | mtcrf | mcrxr | sync | ecowx | slb | tlb => exact inv_advance (inv_of_rest h rfl rfl)
  | fpscr _ hf ht =>
    rw [ht]
    exact inv_of_rest (inv_setFpscr (inv_advance h) hf) rfl rfl
  | compare _ ht => exact ht ▸ inv_advance (inv_of_rest h rfl rfl)
  | b =>
    exact inv_branchTo h _ _ h.fits.ctr (fitsWidth_effective _ _)
      (relativeTarget_aligned h.aligned _ (shiftLeft_two_aligned _))
  | bc =>
    exact inv_branchTo h _ _ (fitsWidth_branchCtr h _) (fitsWidth_effective _ _)
      (relativeTarget_aligned h.aligned _ (shiftLeft_two_aligned _))
  | bclr =>
    exact inv_branchTo h _ _ (fitsWidth_branchCtr h _) (fitsWidth_effective _ _) (registerTarget_aligned _ _)
  | bcctr => exact inv_branchTo h _ _ h.fits.ctr (fitsWidth_effective _ _) (registerTarget_aligned _ _)
  | rfi _ _ ht | rfid _ _ ht => exact inv_returnFromException h ht
  | isync => exact inv_contextSync (inv_advance h)
  | lswx => exact inv_advance (inv_loadString h _ _ _)
  | stswx => exact inv_advance (inv_storeBytes h _ _ _)

theorem inv_exec {i : Instr} {s t : State} (h : s.Inv) (ht : exec i s = .next t) : t.Inv :=
  (exec_next ht).elim (inv_completes h) (inv_tookException h)

/-! ## The end of an instruction and the boundary -/

theorem inv_complete {i : Instr} {s t u : State} (h : t.Inv) (hu : complete i s t = .next u) : u.Inv := by
  rcases complete_next hu with ⟨-, rfl⟩ | ⟨-, -, -, ⟨-, he⟩ | ⟨-, rfl⟩⟩
  · exact h
  · exact inv_enter (inv_drawFree h) he
  · exact h

theorem inv_boundary {s t : State} (h : s.Inv) (ht : boundary s = .next t) : t.Inv := by
  have hticks : (ticks (boundaryInput s).ticks { s with inputs := s.inputs.tail }).Inv := by
    rw [ticks_eq]; exact inv_of_rest h rfl rfl
  rcases asynchronous_next ht with rfl | ⟨e, u, he, rfl | rfl⟩
  · exact hticks
  · exact inv_enter hticks he
  · exact inv_enter (inv_cancelRequest hticks) he

/-- What a step does, where it has a next state: an instruction, its end, and the boundary. -/
theorem step_next {s t : State} (h : step s = .next t) :
    ∃ i u v w, exec i s = .next u ∧ complete i s u = .next v ∧ boundary (drawFree v) = .next w ∧ t = drawFree w := by
  unfold step at h
  split at h
  · cases h
  · next i _ =>
    obtain ⟨u, hu, h⟩ := andThen_next h
    obtain ⟨v, w, hv, hw, rfl⟩ := settle_next h
    exact ⟨i, u, v, w, hu, hv, hw, rfl⟩

/-- Settles O9: the instruction, its end and the boundary each keep the invariant. -/
theorem stepKeepsTheInvariant : Obligations.StepKeepsTheInvariant := by
  unfold Obligations.StepKeepsTheInvariant
  intro s t h ht
  obtain ⟨i, u, v, w, hu, hv, hw, rfl⟩ := step_next ht
  have hvInv : v.Inv := inv_complete (inv_exec h hu) hv
  exact inv_drawFree (inv_boundary (inv_drawFree hvInv) hw)

end Sys2Proof.Machine
end

section
/-! What every step, and every instruction, leaves unchanged: the parameters, supervisor state at user level, memory and
the XER. -/

namespace Sys2Proof.Machine

open Sys2Proof.Config

/-! ## Reset -/

theorem fits_reset : State.reset.Fits where
  gpr := by unfold fitsWidth; decide
  lr := by unfold fitsWidth; decide
  ctr := by unfold fitsWidth; decide
  pc := by unfold fitsWidth; decide
  msr := by unfold fitsWidth; decide
  ibat := by unfold fitsWidth; decide
  dbat := by unfold fitsWidth; decide
  sdr1 := by unfold fitsWidth; decide
  asr := by unfold fitsWidth; decide
  dar := by unfold fitsWidth; decide
  sprg := by unfold fitsWidth; decide
  srr0 := by unfold fitsWidth; decide
  srr1 := by unfold fitsWidth; decide
  dabr := by unfold fitsWidth; decide

/-- Settles O10: each clause is a fact about the closed reset state. -/
theorem resetMeetsTheInvariant : Obligations.ResetMeetsTheInvariant :=
  ⟨reset_memory_wf, fits_reset, by decide, by decide, by decide, by decide, by decide⟩

/-! ## The parameters -/

theorem writeSpr_cfg (s : State) (r : Spr) (v : Word) : (writeSpr s r v).cfg = s.cfg := by rw [writeSpr_frame]

theorem loadString_cfg (s : State) (rD : GprNum) (ea : Word) (n : Nat) : (loadString s rD ea n).cfg = s.cfg := by
  rw [loadString_eq]

theorem entered_cfg (e : Exception) (a : Word) (s : State) : (entered e a s).cfg = s.cfg := by rw [entered_eq]

theorem completes_cfg {i : Instr} {s t : State} (h : Completes s i t) : t.cfg = s.cfg := by
  cases h with
  | mtspr => exact writeSpr_cfg _ _ _
  | lswx => exact loadString_cfg _ _ _ _
  | fpscr _ _ ht => rw [ht]
  | compare _ ht => rw [ht]; rfl
  | rfi _ _ ht | rfid _ _ ht => rw [(returnFromException_next ht).2]; rfl
  | _ => rfl

theorem exec_cfg {i : Instr} {s t : State} (h : exec i s = .next t) : t.cfg = s.cfg := by
  rcases exec_next h with h | h
  · exact completes_cfg h
  · rw [tookException_frame h]

theorem complete_cfg {i : Instr} {s t u : State} (h : complete i s t = .next u) : u.cfg = t.cfg := by
  rcases complete_next h with ⟨-, rfl⟩ | ⟨-, -, -, ⟨-, he⟩ | ⟨-, rfl⟩⟩
  · rfl
  · rw [(enter_next he).2, entered_cfg]; rfl
  · rfl

theorem boundary_cfg {s t : State} (h : boundary s = .next t) : t.cfg = s.cfg := by
  have hticks : (ticks (boundaryInput s).ticks { s with inputs := s.inputs.tail }).cfg = s.cfg := by rw [ticks_eq]
  rcases asynchronous_next h with rfl | ⟨e, u, he, rfl | rfl⟩
  · exact hticks
  · rw [(enter_next he).2, entered_cfg, hticks]
  · rw [(enter_next he).2, entered_cfg]; exact hticks

/-- Settles O11: the instruction, its end and the boundary each leave them alone. -/
theorem stepKeepsTheParameters : Obligations.StepKeepsTheParameters := by
  unfold Obligations.StepKeepsTheParameters
  intro s t h
  obtain ⟨i, u, v, w, hu, hv, hw, rfl⟩ := step_next h
  rw [drawFree_cfg, boundary_cfg hw, drawFree_cfg, complete_cfg hv, exec_cfg hu]

/-! ## User level -/

/-- An instruction that changes no count of exceptions completed. -/
theorem completes_of_excCount {i : Instr} {s t : State} (h : exec i s = .next t) (hc : t.excCount = s.excCount) :
    Completes s i t :=
  (exec_next h).resolve_right fun he => tookException_excCount he hc

/-- Settles O12: what completes at user level is an instruction of that level, and none of those writes more. -/
theorem userLevelLeavesSupervisorState : Obligations.UserLevelLeavesSupervisorState := by
  unfold Obligations.UserLevelLeavesSupervisorState
  intro i s t hu h hc
  have absurd_level (hs : userMode s = false) : False := by rw [hu] at hs; cases hs
  cases completes_of_excCount h hc with
  | mfmsr hs | mtmsr hs | mtmsrd _ hs | mtsr hs | mtsrin hs | mfsr hs | mfsrin hs | rfi _ hs | rfid _ hs | slb _ hs
  | tlb _ hs => exact (absurd_level hs).elim
  | @mtspr n rS r _ hl =>
    have hr : r ∈ [.xer, .lr, .ctr] := r.userLevel_iff.1 (hl.resolve_left absurd_level)
    simp only [List.mem_cons, List.not_mem_nil, or_false] at hr
    rcases hr with rfl | rfl | rfl <;> rfl
  | fpscr _ _ ht => rw [ht]
  | compare _ ht => rw [ht]; rfl
  | lswx => rw [loadString_eq]; rfl
  | _ => rfl

/-! ## Memory and the XER -/

theorem writeSpr_mem (s : State) (r : Spr) (v : Word) : (writeSpr s r v).mem = s.mem := by rw [writeSpr_frame]

theorem loadString_mem (s : State) (rD : GprNum) (ea : Word) (n : Nat) : (loadString s rD ea n).mem = s.mem := by
  rw [loadString_eq]

theorem completes_mem {i : Instr} {s t : State} (hi : ∀ rS rA rB, i ≠ .stswx rS rA rB) (h : Completes s i t) :
    t.mem = s.mem := by
  cases h with
  | mtspr => exact writeSpr_mem _ _ _
  | lswx => exact loadString_mem _ _ _ _
  | fpscr _ _ ht => rw [ht]
  | compare _ ht => rw [ht]; rfl
  | rfi _ _ ht | rfid _ _ ht => rw [(returnFromException_next ht).2]; rfl
  | stswx => exact absurd rfl (hi _ _ _)
  | _ => rfl

/-- Settles O13: neither another instruction's effect nor an exception reaches memory. -/
theorem onlyStswxWritesMemory : Obligations.OnlyStswxWritesMemory := by
  unfold Obligations.OnlyStswxWritesMemory
  intro i s t hi h a
  rcases exec_next h with hc | he
  · rw [completes_mem hi hc]
  · rw [tookException_frame he]

theorem writeSpr_xer_of_ne (s : State) {r : Spr} (v : Word) (h : r ≠ .xer) : (writeSpr s r v).xer = s.xer := by
  cases r with
  | xer => exact absurd rfl h
  | _ => rfl

theorem loadString_xer (s : State) (rD : GprNum) (ea : Word) (n : Nat) : (loadString s rD ea n).xer = s.xer := by
  rw [loadString_eq]

theorem sprNumbers_keys_differ : sprNumbers.Pairwise fun d e => d.1 ≠ e.1 := by decide

/-- The table R114 gives each number one register. -/
theorem sprOf_eq_some_iff (n : SprNum) (r : Spr) : sprOf n = some r ↔ (n.toNat, r) ∈ sprNumbers := by
  rw [sprOf, Option.map_eq_some_iff]
  constructor
  · rintro ⟨e, he, rfl⟩
    have hkey : e.1 = n.toNat := by simpa using List.find?_some he
    exact hkey ▸ List.mem_of_find?_eq_some he
  · intro h
    have exclusive : sprNumbers.Pairwise fun d e => ¬((d.1 == n.toNat) = true ∧ (e.1 == n.toNat) = true) :=
      sprNumbers_keys_differ.imp fun hne hde => hne ((beq_iff_eq.1 hde.1).trans (beq_iff_eq.1 hde.2).symm)
    exact ⟨_, Decode.find?_eq_some_of_pairwise exclusive h (beq_self_eq_true _), rfl⟩

theorem writableSpr_eq_some_iff (p : Params) (n : SprNum) (r : Spr) : writableSpr p n = some r ↔
    (n.toNat, r) ∈ sprNumbers ∧ sprPresent p r = true ∧ r.writable = true := by
  rw [writableSpr, Option.filter_eq_some_iff, sprOf_eq_some_iff, Bool.and_eq_true]

theorem readableSpr_eq_some_iff (p : Params) (n : SprNum) (r : Spr) : readableSpr p n = some r ↔
    (n.toNat, r) ∈ sprNumbers ∧ sprPresent p r = true ∧ r.readable = true := by
  rw [readableSpr, Option.filter_eq_some_iff, sprOf_eq_some_iff, Bool.and_eq_true]

theorem number_of_xer {p : Params} {n : SprNum} (h : writableSpr p n = some .xer) : n = 1 := by
  have hm := ((writableSpr_eq_some_iff p n .xer).1 h).1
  have only : ∀ e ∈ sprNumbers, e.2 = .xer → e.1 = 1 := by decide
  exact BitVec.eq_of_toNat_eq (only _ hm rfl)

/-- Settles O14: of what completes only these two write the XER, and no exception does. -/
theorem onlyMtsprAndMcrxrWriteTheXer : Obligations.OnlyMtsprAndMcrxrWriteTheXer := by
  unfold Obligations.OnlyMtsprAndMcrxrWriteTheXer
  intro i s t h hne
  rcases exec_next h with hc | he
  · cases hc with
    | @mtspr n rS r hr =>
      by_cases hx : r = .xer
      · subst hx
        obtain rfl := number_of_xer hr
        exact .inl ⟨rS, rfl⟩
      · exact absurd (writeSpr_xer_of_ne s _ hx) hne
    | mcrxr => exact .inr ⟨⟨_, rfl⟩, rfl⟩
    | lswx => exact absurd (loadString_xer _ _ _ _) hne
    | fpscr _ _ ht => exact absurd (by rw [ht]) hne
    | compare _ ht => exact absurd (by rw [ht]; rfl) hne
    | rfi _ _ ht | rfid _ _ ht => exact absurd (by rw [(returnFromException_next ht).2]; rfl) hne
    | _ => exact absurd rfl hne
  · exact absurd (by rw [tookException_frame he]) hne

end Sys2Proof.Machine
end

section
/-! Fetching and the step: what the fetch answers, what the step does with it, and what the context of an instruction is
while windows are open. -/

namespace Sys2Proof.Machine

open Sys2Proof.Config

/-! ## The context while windows are open (R402) -/

/-- A bit whose window is closed is the register's. -/
theorem getLsbD_contextMsr {s : State} {k : Nat} (h : s.windows.msr.getLsbD k = false) :
    (contextMsr s).getLsbD k = s.msr.getLsbD k := by
  unfold contextMsr
  split
  · rfl
  · rw [BitVec.getLsbD_xor, BitVec.getLsbD_and, h, Bool.false_and, Bool.xor_false]

theorem contextEar_of_closed {s : State} (h : s.windows.ear = []) : contextEar s = s.ear := by simp [contextEar, h]

theorem contextEar_mem (s : State) : contextEar s ∈ s.ear :: s.windows.ear := by
  unfold contextEar
  generalize s.windows.ear = olds
  cases olds with
  | nil => exact List.mem_cons_self
  | cons o olds =>
    have hlt : (freeValue .earWindow s).toNat % ((o :: olds).length + 1) < (s.ear :: o :: olds).length :=
      Nat.mod_lt _ (Nat.succ_pos _)
    show List.getD _ _ _ ∈ _
    rw [← List.getElem_eq_getD (h := hlt)]
    exact List.getElem_mem hlt

/-- Settles O7: a closed window masks the free choice away, and the EAR's choice is among the values it had. -/
theorem windowContext : Obligations.WindowContext := by
  unfold Obligations.WindowContext
  intro s
  exact ⟨fun _ => getLsbD_contextMsr, contextEar_mem s, contextEar_of_closed, rfl, rfl, fun _ => rfl⟩

/-! ## The fetch -/

theorem decodeBytes_fetchBytes (s : State) : Decode.decodeBytes (fetchBytes s) = Decode.decode (fetchWord s) := rfl

theorem fetch_of_refusal {s : State} {r : Refusal} (h : fetchRefusal s = some r) : fetch s = .error r := by
  simp [fetch, h]

theorem fetch_of_decoded {s : State} {i : Instr} (h : fetchRefusal s = none)
    (hd : Decode.decodeBytes (fetchBytes s) = .ok i) : fetch s = .ok i := by simp [fetch, h, hd]

theorem fetch_of_undecoded {s : State} {e : Decode.DecodeError} (h : fetchRefusal s = none)
    (hd : Decode.decodeBytes (fetchBytes s) = .error e) : fetch s = .error (.undecodedWord (fetchWord s)) := by
  simp [fetch, h, hd]

theorem step_of_fetch_error {s : State} {r : Refusal} (h : fetch s = .error r) : step s = .refused r := by
  simp [step, h]

theorem step_of_fetch_ok {s : State} {i : Instr} (h : fetch s = .ok i) : step s = andThen (exec i s) (settle i s) := by
  simp [step, h]

/-- Settles O5: the fetch answers the decoded instruction, and the rest is what `settle` says. -/
theorem stepRunsTheDecodedInstruction : Obligations.StepRunsTheDecodedInstruction := by
  unfold Obligations.StepRunsTheDecodedInstruction
  intro s i h hd
  rw [step_of_fetch_ok (fetch_of_decoded h hd)]
  rfl

/-! ## Why nothing is fetched, in the order of the checks -/

theorem fetchRefusal_mode {s : State} {r : Refusal} (h : unsupportedMsr s.cfg (contextMsr s) = some r) :
    fetchRefusal s = some r := by simp [fetchRefusal, h]

theorem fetchRefusal_high {s : State} (h : unsupportedMsr s.cfg (contextMsr s) = none)
    (hw : s.windows.msr.getLsbD 63 = true) (hp : 2 ^ 32 ≤ s.pc.toNat) : fetchRefusal s = some .implicitBranch := by
  simp [fetchRefusal, h, -BitVec.getLsbD_eq_getElem, hw]
  omega

section
variable {s : State} (h : unsupportedMsr s.cfg (contextMsr s) = none)
  (hw : s.windows.msr.getLsbD 63 = false ∨ s.pc.toNat < 2 ^ 32)
include h hw

/-- The checks that follow when the mode is supported and the window of MSR[SF] does not stop the fetch. -/
theorem fetchRefusal_of_window :
    fetchRefusal s =
      if (List.range 4).any (fun k => s.storedSince.contains (fetchAddr s k)) then some .unsynchronizedFetch
      else if !((List.range 4).all (fun k => mapped s.cfg (fetchAddr s k))) then some .noMemory
      else none := by
  have hopen : (s.windows.msr.getLsbD 63 && decide (2 ^ 32 ≤ s.pc.toNat)) = false := by
    rcases hw with hw | hw
    · rw [hw, Bool.false_and]
    · rw [decide_eq_false (Nat.not_le.2 hw), Bool.and_false]
  rw [fetchRefusal, h]
  simp only [hopen, Bool.false_eq_true, if_false]

theorem fetchRefusal_stored (hst : ∃ k < 4, fetchAddr s k ∈ s.storedSince) :
    fetchRefusal s = some .unsynchronizedFetch := by
  rw [fetchRefusal_of_window h hw, if_pos]
  obtain ⟨k, hk, hm⟩ := hst
  exact List.any_eq_true.2 ⟨k, List.mem_range.2 hk, List.contains_iff_mem.2 hm⟩

theorem fetchRefusal_of_not_stored (hst : ∀ k < 4, fetchAddr s k ∉ s.storedSince) :
    fetchRefusal s =
      if !((List.range 4).all (fun k => mapped s.cfg (fetchAddr s k))) then some .noMemory else none := by
  rw [fetchRefusal_of_window h hw, if_neg]
  rw [List.any_eq_true]
  rintro ⟨k, hk, hm⟩
  exact hst k (List.mem_range.1 hk) (List.contains_iff_mem.1 hm)

theorem fetchRefusal_unmapped (hst : ∀ k < 4, fetchAddr s k ∉ s.storedSince)
    (hm : ∃ k < 4, mapped s.cfg (fetchAddr s k) = false) : fetchRefusal s = some .noMemory := by
  rw [fetchRefusal_of_not_stored h hw hst, if_pos]
  obtain ⟨k, hk, hm⟩ := hm
  rw [Bool.not_eq_true', List.all_eq_false]
  exact ⟨k, List.mem_range.2 hk, by simp [hm]⟩

theorem fetchRefusal_none (hst : ∀ k < 4, fetchAddr s k ∉ s.storedSince)
    (hm : ∀ k < 4, mapped s.cfg (fetchAddr s k) = true) : fetchRefusal s = none := by
  rw [fetchRefusal_of_not_stored h hw hst, if_neg]
  rw [Bool.not_eq_true', List.all_eq_false]
  rintro ⟨k, hk, hne⟩
  exact hne (hm k (List.mem_range.1 hk))

end

/-! ## The implicit branch at the end of an instruction (R418, U28) -/

/-- An address at or above 2^32 is another one in 32-bit mode. -/
theorem ne_low32_of_le {a : Word} (h : 2 ^ 32 ≤ a.toNat) : a ≠ low32 a := by
  intro e
  have := congrArg BitVec.toNat e
  rw [low32_toNat] at this
  omega

theorem exec_sc_excCount {s t : State} (h : exec .sc s = .next t) : t.excCount = s.excCount + 1 := by
  rw [exec_sc] at h
  rw [(enter_next h).2, entered_eq]

/-- What goes on with the next instruction in memory: all but the branches that are taken, the returns and **sc**. -/
theorem sequential_of_not_branch {i : Instr} {s : State} (hb : ∀ li aa lk, i ≠ .b li aa lk) (hsc : i ≠ .sc)
    (hrfi : i ≠ .rfi) (hrfid : i ≠ .rfid)
    (hbc : ∀ bo bi bd aa lk, i = .bc bo bi bd aa lk → branchTaken s bo bi = false)
    (hbclr : ∀ bo bi lk, i = .bclr bo bi lk → branchTaken s bo bi = false)
    (hbcctr : ∀ bo bi lk, i = .bcctr bo bi lk → branchCondOk s bo bi = false) : sequential s i = true := by
  cases i with
  | b li aa lk => exact absurd rfl (hb li aa lk)
  | sc => exact absurd rfl hsc
  | rfi => exact absurd rfl hrfi
  | rfid => exact absurd rfl hrfid
  | bc bo bi bd aa lk => exact congrArg not (hbc bo bi bd aa lk rfl)
  | bclr bo bi lk => exact congrArg not (hbclr bo bi lk rfl)
  | bcctr bo bi lk => exact congrArg not (hbcctr bo bi lk rfl)
  | _ => rfl

theorem complete_of_implicitBranch {i : Instr} {s t : State} (hc : t.excCount = s.excCount)
    (hs : sequential s i = true) (hw : s.windows.msr.getLsbD 63 = true ∨ t.windows.msr.getLsbD 63 = true)
    (hp : 2 ^ 32 ≤ (s.pc + 4).toNat) : complete i s t = .refused .implicitBranch := by
  have hi : implicitBranch i s t = true := by
    rw [implicitBranch, BitVec.getLsbD_or, Bool.or_eq_true .. |>.mpr hw, hs, bne_iff_ne.2 (ne_low32_of_le hp)]
    rfl
  simp [complete, hc, hi]

/-- Settles O6: each stop is the first check that fails, and the last clause is the one at the end of an instruction. -/
theorem fetchStops : Obligations.FetchStops := by
  unfold Obligations.FetchStops
  intro s
  refine ⟨fun r h => ?_, fun h hw hp => ?_, fun h hw => ⟨fun hst => ?_, fun hst hm => ?_, fun hst hm hrow => ?_⟩,
    fun k _ => ⟨rfl, fun hmode => ?_⟩, fun i t ht hc hw hp hb hrfi hrfid hbc hbclr hbcctr => ?_⟩
  · exact step_of_fetch_error (fetch_of_refusal (fetchRefusal_mode h))
  · exact step_of_fetch_error (fetch_of_refusal (fetchRefusal_high h hw hp))
  · exact step_of_fetch_error (fetch_of_refusal (fetchRefusal_stored h hw hst))
  · exact step_of_fetch_error (fetch_of_refusal (fetchRefusal_unmapped h hw hst hm))
  · exact step_of_fetch_error (fetch_of_undecoded (fetchRefusal_none h hw hst hm)
      ((decodeBytes_fetchBytes s).trans (Decode.decode_of_no_match hrow)))
  · rw [fetchAddr, effective, hmode, if_neg Bool.false_ne_true, low32_toNat]
    exact Nat.mod_lt _ (by decide)
  · refine complete_of_implicitBranch hc (sequential_of_not_branch hb ?_ hrfi hrfid hbc hbclr hbcctr) hw hp
    rintro rfl
    rw [exec_sc_excCount ht] at hc
    omega

/-! ## An instruction placed at the pc is fetched -/

/-- The modes the model supports have no window, so the context is as supported as the register. -/
theorem unsupportedMsr_contextMsr {s : State} (h : s.Inv) : unsupportedMsr s.cfg (contextMsr s) = none := by
  have hw := (windows_iff _ _).1 h.windows
  have closed (k : Nat) (hk : k ∈ [18, 0, 5, 4]) : s.windows.msr.getLsbD k = false := by
    by_contra hne
    obtain ⟨hb, h5, h4⟩ := hw k (Bool.not_eq_false _ ▸ hne)
    rw [getLsbD_windowedBits] at hb
    simp only [List.mem_cons, List.not_mem_nil, or_false] at hk
    rcases hk with rfl | rfl | rfl | rfl <;> simp_all
  have hs := (unsupportedMsr_eq_none_iff _ _).1 h.supported
  rw [unsupportedMsr_eq_none_iff, getLsbD_contextMsr (closed 18 (by decide)), getLsbD_contextMsr (closed 0 (by decide)),
    getLsbD_contextMsr (closed 5 (by decide)), getLsbD_contextMsr (closed 4 (by decide))]
  exact hs

theorem fetchAddr_placeWord (s : State) (w : Word32) (k : Nat) : fetchAddr (placeWord s w) k = fetchAddr s k := rfl

/-- Placing a word stores its bytes where the fetch reads them. -/
theorem memRead_placeWord {s : State} (h : s.mem.wf = true) (w : Word32) {k : Nat} (hk : k < 4) :
    memRead (placeWord s w).mem (fetchAddr s k) = Decode.byteOfWord w k :=
  memRead_storeBytes_same (ea := s.pc) (Decode.byteOfWord w) (by decide) hk h

theorem fetchWord_placeWord {s : State} (h : s.mem.wf = true) (w : Word32) : fetchWord (placeWord s w) = w := by
  rw [fetchWord]
  simp only [fetchAddr_placeWord]
  rw [memRead_placeWord h w (by decide), memRead_placeWord h w (by decide), memRead_placeWord h w (by decide),
    memRead_placeWord h w (by decide), wordOfBytes_byteOfWord]

theorem not_stored_placeWord (s : State) (w : Word32) {k : Nat} (hk : k < 4) :
    fetchAddr s k ∉ (placeWord s w).storedSince := by
  intro hm
  have := (List.mem_filter.1 hm).2
  rw [Bool.not_eq_true', List.any_eq_false] at this
  exact this k (List.mem_range.2 hk) (beq_self_eq_true _)

theorem withFetchWord_eq (s : State) (w : Word32) : s.withFetchWord 32 w.toNat = placeWord s w := by
  rw [State.withFetchWord, Nat.mod_eq_of_lt w.isLt, BitVec.ofNat_toNat, BitVec.setWidth_eq]

/-- Settles O8: nothing stops the fetch, and the bytes it reads are those of the word placed. -/
theorem placedInstructionIsFetched : Obligations.PlacedInstructionIsFetched := by
  unfold Obligations.PlacedInstructionIsFetched
  intro s i h hw hm
  rw [withFetchWord_eq]
  have hmode : unsupportedMsr (placeWord s (Decode.encode i)).cfg (contextMsr (placeWord s (Decode.encode i))) = none :=
    unsupportedMsr_contextMsr (s := s) h
  refine fetch_of_decoded (fetchRefusal_none hmode (.inl hw) ?_ hm) ?_
  · exact fun k hk => not_stored_placeWord s _ hk
  · rw [decodeBytes_fetchBytes, fetchWord_placeWord h.memory]
    exact Decode.everyEncodingDecodesBack i

end Sys2Proof.Machine
end

section
/-! Exceptions (60_exceptions.md): what entry writes, where it goes, and what the return restores. -/

namespace Sys2Proof.Machine

open Sys2Proof.Config

/-! ## Entry (R330 to R338) -/

/-- Every exception but a system reset or machine check without MSR[RI] synchronizes the context (R338). -/
theorem synchronizes_iff (e : Exception) (s : State) :
    synchronizes e s = true ↔ (e ≠ .systemReset ∧ e ≠ .machineCheck) ∨ s.msr.getLsbD 1 = true := by
  simp [synchronizes, msrRI]

/-- Settles O15: the frame is that of `entered_eq`, the MSR's bits those of `getLsbD_entryMsr`. -/
theorem exceptionEntryRegisters : Obligations.ExceptionEntryRegisters := by
  unfold Obligations.ExceptionEntryRegisters
  intro e resume s
  refine ⟨fun h => if_pos h, fun h => ⟨_, enter_of_big_endian h e resume, ?_⟩⟩
  rw [entered_eq]
  refine ⟨rfl, fun k hk => ?_, ?_, ?_, fun k hk => ?_, rfl, fun hsync => ?_, fun he hri => ?_, fun _ => rfl, rfl⟩
  · simp only [List.mem_cons, List.not_mem_nil, or_false] at hk
    have hile : s.msr.getLsbD 16 = false := h
    rcases hk with rfl | rfl | rfl | rfl | rfl | rfl | rfl | rfl | rfl | rfl | rfl | rfl <;>
      simp [-BitVec.getLsbD_eq_getElem, getLsbD_entryMsr, hile]
  · simp [-BitVec.getLsbD_eq_getElem, getLsbD_entryMsr]
  · cases hp : is64 s.cfg <;> simp [-BitVec.getLsbD_eq_getElem, getLsbD_entryMsr, hp]
  · simp only [List.mem_cons, List.not_mem_nil, or_false, not_or] at hk
    simp [getLsbD_entryMsr, hk]
  · simp [(synchronizes_iff e s).2 hsync]
  · have hnot : ¬synchronizes e s = true := by
      rw [synchronizes_iff]
      rintro (⟨h1, h2⟩ | h1)
      · exact he.elim h1 h2
      · rw [hri] at h1; cases h1
    simp [hnot]

theorem info_eq (e : Exception) :
    e.info = if e = .program .floatingPointEnabled then 0x00100000
      else if e = .program .illegalInstruction then 0x00080000
      else if e = .program .privilegedInstruction then 0x00040000
      else if e = .program .trap then 0x00020000 else 0 := by
  cases e with
  | program c => cases c <;> rfl
  | _ => rfl

/-- The exception-specific information stands where no MSR bit is saved (R95, R336). -/
theorem savedMask_and_info (p : Params) (e : Exception) : savedMask p &&& e.info = 0 := by
  rw [savedMask]
  cases is64 p <;> cases e with
  | program c => cases c <;> decide
  | _ => decide

theorem getLsbD_savedSrr1_of_saved {e : Exception} {s : State} {k : Nat} (h : (savedMask s.cfg).getLsbD k = true) :
    (savedSrr1 e s).getLsbD k = (visibleMsr s).getLsbD k := by
  have hi := congrArg (fun v : Word => v.getLsbD k) (savedMask_and_info s.cfg e)
  simp only [BitVec.getLsbD_and, h, Bool.true_and, BitVec.ofNat_eq_ofNat, BitVec.getLsbD_zero] at hi
  simp [savedSrr1, h, hi]

theorem getLsbD_visibleMsr_of_defined {s : State} {k : Nat} (h : (msrReserved s.cfg).getLsbD k = false) :
    (visibleMsr s).getLsbD k = s.msr.getLsbD k := by simp [visibleMsr, getLsbD_readReserved, h]

theorem getLsbD_visibleMsr_of_zero {s : State} {k : Nat} (h : s.msr.getLsbD k = false) :
    (visibleMsr s).getLsbD k = false := by simp [visibleMsr, getLsbD_readReserved, h]

theorem entered_srr1 (e : Exception) (a : Word) (s : State) : (entered e a s).srr1 = savedSrr1 e s := by
  rw [entered_eq]

/-- Settles O16: the saved bits are the MSR's as it reads, the other bits the exception's information. -/
theorem exceptionEntrySavesTheMsr : Obligations.ExceptionEntrySavesTheMsr := by
  unfold Obligations.ExceptionEntrySavesTheMsr
  rintro e resume s k _ _ rfl rfl
  rw [← info_eq, entered_srr1]
  refine ⟨fun hk hr => ?_, fun hk hm => ?_, fun hk => ?_⟩
  · exact (getLsbD_savedSrr1_of_saved hk).trans (getLsbD_visibleMsr_of_defined hr)
  · exact (getLsbD_savedSrr1_of_saved hk).trans (getLsbD_visibleMsr_of_zero hm)
  · rw [savedSrr1, BitVec.getLsbD_or, BitVec.getLsbD_and, show (savedMask s.cfg).getLsbD k = false from hk,
      Bool.and_false, Bool.false_or]

/-- Settles O17: the offset has no bit where the prefixed address has one. -/
theorem vectorAddress : Obligations.VectorAddress := by
  unfold Obligations.VectorAddress
  refine ⟨fun p m e => ?_, rfl, rfl, rfl, rfl, rfl, rfl, fun _ => rfl, rfl, rfl, rfl, rfl⟩
  rw [vector, toWidth]
  cases is64 p <;> cases msrIP m <;> cases e <;> simp [low32, Exception.offset]

/-! ## Conditions an instruction checks first, decided -/

theorem presentIf_of_true {b : Bool} (h : b = true) (k : Out) : presentIf b k = k := if_pos h

theorem presentIf_of_false {b : Bool} (h : b = false) (k : Out) : presentIf b k = .refused .absentOnImplementation :=
  if_neg (by simp [h])

theorem supervisorOnly_of_supervisor {s : State} (h : userMode s = false) (k : Out) : supervisorOnly s k = k :=
  if_neg (by simp [h])

theorem supervisorOnly_of_user {s : State} (h : userMode s = true) (k : Out) :
    supervisorOnly s k = raise (.program .privilegedInstruction) s := if_pos h

theorem segmentMove_of_32 {s : State} (h : is64 s.cfg = false) (k : Out) : segmentMove s k = supervisorOnly s k := by
  simp [segmentMove, h]

theorem is64_of_bridge {p : Params} (h : hasBridge p = true) : is64 p = true := (Bool.and_eq_true_iff.1 h).1

theorem segmentMove_of_bridge {s : State} (h : hasBridge s.cfg = true) (k : Out) :
    segmentMove s k = supervisorOnly s (.refused .segmentBridge) := by
  simp [segmentMove, h, is64_of_bridge h]

theorem segmentMove_of_64 {s : State} (h : is64 s.cfg = true) (hb : hasBridge s.cfg = false) (k : Out) :
    segmentMove s k = undefinedTreatment true .absentOnImplementation s := by
  simp [segmentMove, h, hb]

theorem fpAvailable_of_available {s : State} (h : msrFP (contextMsr s) = true) (k : Out) : fpAvailable s k = k :=
  if_pos h

theorem fpAvailable_of_unavailable {s : State} (h : msrFP (contextMsr s) = false) (k : Out) :
    fpAvailable s k = raise .fpUnavailable s := if_neg (by simp [h])

/-! ## The return (R272, R274, R339) -/

theorem returnFromException_of_supported {mask : Word} {s : State}
    (h : unsupportedMsr s.cfg (merge s.msr s.srr1 mask) = none) :
    returnFromException mask s = .next (contextSync { s with
      msr := merge s.msr s.srr1 mask
      pc := if is64 s.cfg && msrSF (merge s.msr s.srr1 mask) then clearLow2 s.srr0
        else low32 (clearLow2 s.srr0) }) := by
  simp [returnFromException, h]

theorem returnFromException_of_unsupported {mask : Word} {s : State} {r : Refusal}
    (h : unsupportedMsr s.cfg (merge s.msr s.srr1 mask) = some r) : returnFromException mask s = .refused r := by
  simp [returnFromException, h]

theorem exec_rfi {s : State} (hu : userMode s = false) (hw : is64 s.cfg = false ∨ hasBridge s.cfg = true) :
    exec .rfi s = returnFromException 0x0000000087C0FFFF s := by
  rw [exec, execRfi, presentIf_of_true (by simpa using hw), supervisorOnly_of_supervisor hu]

theorem exec_rfid {s : State} (hu : userMode s = false) (hw : is64 s.cfg = true) :
    exec .rfid s = returnFromException 0xFFFFFFFF87C0FFFF s := by
  rw [exec, execRfid, presentIf_of_true hw, supervisorOnly_of_supervisor hu]

/-- The return of an implementation, **rfid** or **rfi**, loads the bits that its exceptions save (R95). -/
theorem exec_return {s : State} (hu : userMode s = false) :
    exec (if is64 s.cfg then .rfid else .rfi) s = returnFromException (savedMask s.cfg) s := by
  rw [savedMask]
  cases hp : is64 s.cfg
  · exact exec_rfi hu (.inl hp)
  · exact exec_rfid hu hp

theorem contextMsr_of_closed {s : State} (h : s.windows.msr = 0) : contextMsr s = s.msr := if_pos h

section
variable {e : Exception} {s : State} {a : Word}

theorem entered_windows (h : synchronizes e s = true) : (entered e a s).windows = Windows.closed := by
  rw [entered_eq]; exact if_pos h

theorem entered_msr : (entered e a s).msr = entryMsr s.cfg e s.msr := by rw [entered_eq]

/-- The handler of a synchronizing exception starts in supervisor mode: no window is left open over MSR[PR]. -/
theorem userMode_entered (h : synchronizes e s = true) : userMode (entered e a s) = false := by
  have closed : (entered e a s).windows.msr = 0 := by rw [entered_windows h]; rfl
  rw [userMode, contextMsr_of_closed closed, entered_msr, msrPR, getLsbD_entryMsr]
  simp

/-- A saved bit of the MSR that the return restores, read from the SRR1 that entry left. -/
theorem getLsbD_restored {k : Nat} (h : (savedMask s.cfg).getLsbD k = true) :
    (merge (entered e a s).msr (entered e a s).srr1 (savedMask s.cfg)).getLsbD k = (visibleMsr s).getLsbD k := by
  rw [getLsbD_merge, if_pos h, entered_srr1, getLsbD_savedSrr1_of_saved h]

theorem savedMask_low_bits (p : Params) :
    (savedMask p).getLsbD 18 = false ∧ (savedMask p).getLsbD 0 = true ∧ (savedMask p).getLsbD 5 = true ∧
      (savedMask p).getLsbD 4 = true := by
  rw [savedMask]
  cases is64 p <;> decide

/-- The MSR that the return restores is supported where the MSR before entry was: POW stays cleared, and LE, IR and DR
were zero. -/
theorem restored_supported (h : unsupportedMsr s.cfg s.msr = none) :
    unsupportedMsr s.cfg (merge (entered e a s).msr (entered e a s).srr1 (savedMask s.cfg)) = none := by
  obtain ⟨-, h0, h5, h4⟩ := (unsupportedMsr_eq_none_iff _ _).1 h
  obtain ⟨m18, m0, m5, m4⟩ := savedMask_low_bits s.cfg
  refine (unsupportedMsr_eq_none_iff _ _).2 ⟨fun _ => ?_, ?_, ?_, ?_⟩
  · rw [getLsbD_merge, m18, if_neg Bool.false_ne_true, entered_msr, getLsbD_entryMsr]
    simp
  · rw [getLsbD_restored m0, getLsbD_visibleMsr_of_zero h0]
  · rw [getLsbD_restored m5, getLsbD_visibleMsr_of_zero h5]
  · rw [getLsbD_restored m4, getLsbD_visibleMsr_of_zero h4]

end

theorem sf_saved_and_defined {p : Params} (h : is64 p = true) :
    (savedMask p).getLsbD 63 = true ∧ (msrReserved p).getLsbD 63 = false := by
  rw [savedMask, msrReserved, h]
  cases hasBridge p <;> cases p.hasPow <;> cases p.hasSe <;> cases p.hasBe <;> decide

theorem low32_low32 (a : Word) : low32 (low32 a) = low32 a := by
  rw [low32, low32, BitVec.and_assoc, BitVec.and_self]

/-- Settles O18: the return finds the pc and the MSR's saved bits where entry put them, and the restored MSR[SF] selects
the width the address was saved in. -/
theorem returnUndoesExceptionEntry : Obligations.ReturnUndoesExceptionEntry := by
  unfold Obligations.ReturnUndoesExceptionEntry
  intro e s h hw _ hsync
  have hcfg := entered_cfg e s.pc s
  have hret := returnFromException_of_supported (s := entered e s.pc s) (mask := savedMask s.cfg)
    (by rw [hcfg]; exact restored_supported h.supported)
  have hexec := exec_return (userMode_entered (a := s.pc) hsync)
  rw [hcfg, hret] at hexec
  refine ⟨_, hexec, ?_, fun k hk hr => (getLsbD_restored hk).trans (getLsbD_visibleMsr_of_defined hr)⟩
  have hsrr0 : (entered e s.pc s).srr0 = effective s s.pc := by rw [entered_eq]
  have haligned : effective s s.pc &&& 3 = 0 := (effective_aligned_iff s s.pc).2 h.aligned
  show (if _ then _ else _) = _
  rw [hcfg, hsrr0, clearLow2_of_aligned haligned]
  have hmode : mode64 s = (is64 s.cfg && msrSF s.msr) := by rw [mode64, contextMsr_of_closed hw]
  have hsf : (is64 s.cfg && msrSF (merge (entered e s.pc s).msr (entered e s.pc s).srr1 (savedMask s.cfg))) =
      mode64 s := by
    rw [hmode]
    cases hp : is64 s.cfg
    · rfl
    · obtain ⟨hs, hd⟩ := sf_saved_and_defined hp
      rw [msrSF, getLsbD_restored hs, getLsbD_visibleMsr_of_defined hd, msrSF]
  rw [hsf, effective]
  cases mode64 s
  · exact low32_low32 s.pc
  · rfl

end Sys2Proof.Machine
end

section
/-! The exceptions and the stops of instructions (60_exceptions.md): privilege, undefined numbers, floating-point
unavailable, trace, the boundary, data accesses, and the forms and operands that no source defines. -/

namespace Sys2Proof.Machine

open Sys2Proof.Config

/-! ## Privilege (R275, R340) -/

/-- A supervisor-level instruction at user level does nothing but raise the privileged instruction exception. -/
theorem exec_supervisor_at_user {i : Instr} {s : State} (hi : supervisorInstr i = true)
    (hx : existsOn s.cfg i = true) (hu : userMode s = true) :
    exec i s = raise (.program .privilegedInstruction) s := by
  have segment (k : Out) (h : (!is64 s.cfg || hasBridge s.cfg) = true) :
      segmentMove s k = raise (.program .privilegedInstruction) s := by
    rcases Bool.or_eq_true_iff.1 h with h | h
    · rw [segmentMove_of_32 (Bool.not_eq_true' _ ▸ h), supervisorOnly_of_user hu]
    · rw [segmentMove_of_bridge h, supervisorOnly_of_user hu]
  cases i with
  | mfmsr | tlbie | tlbia => exact supervisorOnly_of_user hu _
  | mtmsr | mtmsrd | rfi | rfid | slbie | slbia =>
    exact (presentIf_of_true hx _).trans (supervisorOnly_of_user hu _)
  | mtsr | mtsrin | mfsr | mfsrin => exact segment _ hx
  | _ => cases hi

/-- Settles O19: the level is checked before any effect, and after nothing but the instruction's existence. -/
theorem supervisorInstructionsTrapAtUserLevel : Obligations.SupervisorInstructionsTrapAtUserLevel := by
  unfold Obligations.SupervisorInstructionsTrapAtUserLevel
  intro i s hi hx hu
  have h := exec_supervisor_at_user hi hx hu
  exact ⟨h, fun hile => h.trans (enter_of_big_endian hile _ _)⟩

/-! ## Undefined numbers (R184, R191, U2) -/

theorem exec_mfspr_of_undefined {s : State} {n : SprNum} (rD : GprNum) (h : readableSpr s.cfg n = none) :
    exec (.mfspr rD n) s = undefinedTreatment (n.getLsbD 4) (.undefinedSpr n) s := by
  simp [exec, execMfspr, h, undefinedNumber]

theorem exec_mtspr_of_undefined {s : State} {n : SprNum} (rS : GprNum) (h : writableSpr s.cfg n = none) :
    exec (.mtspr n rS) s = undefinedTreatment (n.getLsbD 4) (.undefinedSpr n) s := by
  simp [exec, execMtspr, h, undefinedNumber]

theorem exec_mftb_of_undefined {s : State} {n : SprNum} (rD : GprNum) (h1 : n ≠ 268) (h2 : n ≠ 269) :
    exec (.mftb rD n) s = undefinedTreatment (n.getLsbD 4) (.undefinedSpr n) s := by
  have h : readTbr s n = none := (if_neg h1).trans (if_neg h2)
  simp [exec, execMftb, h, undefinedNumber]

/-- Settles O21: each of the seven moves is `undefinedTreatment`, which answers by the parameter. -/
theorem undefinedSprNumbers : Obligations.UndefinedSprNumbers := by
  unfold Obligations.UndefinedSprNumbers
  intro i s r supervisor hi
  have hexec : exec i s = undefinedTreatment supervisor r s := by
    rcases hi with ⟨n, rfl, rfl, ⟨rD, rfl, hn⟩ | ⟨rS, rfl, hn⟩ | ⟨rD, rfl, h1, h2⟩⟩ | ⟨rfl, rfl, hw, hb, hi⟩
    · exact exec_mfspr_of_undefined rD hn
    · exact exec_mtspr_of_undefined rS hn
    · exact exec_mftb_of_undefined rD h1 h2
    · rcases hi with ⟨n, rS, rfl⟩ | ⟨rS, rB, rfl⟩ | ⟨rD, n, rfl⟩ | ⟨rD, rB, rfl⟩ <;>
        exact segmentMove_of_64 hw hb _
  rw [hexec, undefinedTreatment]
  refine ⟨fun h => ?_, fun h => ?_, fun h => ?_, fun h hu => ?_, fun h hu => ?_⟩
  · rw [h]; rfl
  · rw [h]; rfl
  · rw [h]
  · rw [h, hu]; rfl
  · rw [h, hu]; rfl

/-! ## Floating-point unavailable (R344) -/

/-- Settles O22: MSR[FP] is the first thing each of the five checks. -/
theorem floatingPointUnavailable : Obligations.FloatingPointUnavailable := by
  unfold Obligations.FloatingPointUnavailable
  intro i s hi hfp
  have h : exec i s = raise .fpUnavailable s := by
    cases i with
    | mcrfs | mtfsfi | mtfsf | mtfsb0 | mtfsb1 => exact fpAvailable_of_unavailable hfp _
    | _ => cases hi
  exact ⟨h, fun hile => h.trans (enter_of_big_endian hile _ _)⟩

/-! ## Trace (R347) -/

theorem isUntraced_eq_false_iff (i : Instr) : isUntraced i = false ↔ i ≠ .rfi ∧ i ≠ .rfid ∧ i ≠ .sc := by
  cases i with
  | rfi | rfid | sc => simp [isUntraced]
  | _ => exact ⟨fun _ => ⟨nofun, nofun, nofun⟩, fun _ => rfl⟩

theorem isBranch_iff (i : Instr) : isBranch i = true ↔
    (∃ li aa lk, i = .b li aa lk) ∨ (∃ bo bi bd aa lk, i = .bc bo bi bd aa lk) ∨
      (∃ bo bi lk, i = .bclr bo bi lk) ∨ ∃ bo bi lk, i = .bcctr bo bi lk := by
  constructor
  · intro h
    cases i with
    | b => exact .inl ⟨_, _, _, rfl⟩
    | bc => exact .inr (.inl ⟨_, _, _, _, _, rfl⟩)
    | bclr => exact .inr (.inr (.inl ⟨_, _, _, rfl⟩))
    | bcctr => exact .inr (.inr (.inr ⟨_, _, _, rfl⟩))
    | _ => cases h
  · rintro (⟨_, _, _, rfl⟩ | ⟨_, _, _, _, _, rfl⟩ | ⟨_, _, _, rfl⟩ | ⟨_, _, _, rfl⟩) <;> rfl

theorem traced_iff (i : Instr) (s : State) : traced i s = true ↔
    (s.cfg.hasSe = true ∧ msrSE (contextMsr s) = true ∧ i ≠ .rfi ∧ i ≠ .rfid ∧ i ≠ .sc) ∨
      (s.cfg.hasBe = true ∧ msrBE (contextMsr s) = true ∧
        ((∃ li aa lk, i = .b li aa lk) ∨ (∃ bo bi bd aa lk, i = .bc bo bi bd aa lk) ∨
          (∃ bo bi lk, i = .bclr bo bi lk) ∨ ∃ bo bi lk, i = .bcctr bo bi lk)) := by
  rw [← isUntraced_eq_false_iff, ← isBranch_iff, traced]
  simp only [Bool.or_eq_true, Bool.and_eq_true, Bool.not_eq_true', and_assoc]

/-- Past the stops of an instruction's end only the trace exception is left. -/
theorem complete_of_goesOn {i : Instr} {s t : State} (hc : t.excCount = s.excCount)
    (hb : implicitBranch i s t = false) (hf : fpTrapDue t = false) :
    complete i s t = if traced i s then enter .trace t.pc (drawFree t) else .next t := by
  simp only [complete, hb, hf, hc, ne_eq, not_true_eq_false, if_false, Bool.false_eq_true]

/-- Settles O23: past the two stops, `complete` enters the trace exception exactly where `traced` says so. -/
theorem traceExceptions : Obligations.TraceExceptions := by
  unfold Obligations.TraceExceptions
  intro i s t _ hc hb hf hile
  rw [← traced_iff]
  refine ⟨fun ht => ?_, fun ht => ?_⟩
  · rw [complete_of_goesOn hc hb hf, if_pos ht]
    exact enter_of_big_endian (s := drawFree t) hile _ _
  · rw [complete_of_goesOn hc hb hf, if_neg ht]

/-! ## Timers and the boundary (R350 to R360) -/

/-- A request after `n` ticks: one from before, or one that some tick signals. -/
theorem ticks_decPending_iff (n : Nat) (s : State) : (ticks n s).decPending = true ↔ s.decPending = true ∨
    ∃ k < n, (s.dec - BitVec.ofNat 32 k).getLsbD 31 = false ∧ (s.dec - BitVec.ofNat 32 (k + 1)).getLsbD 31 = true := by
  induction n generalizing s with
  | zero => simp [ticks]
  | succ n ih =>
    have hsub (k : Nat) : s.dec - 1 - BitVec.ofNat 32 k = s.dec - BitVec.ofNat 32 (k + 1) := by
      rw [BitVec.ofNat_add, BitVec.add_comm, BitVec.sub_sub]; rfl
    have first : (tick s).decPending = true ↔ s.decPending = true ∨
        ((s.dec - BitVec.ofNat 32 0).getLsbD 31 = false ∧ (s.dec - BitVec.ofNat 32 (0 + 1)).getLsbD 31 = true) := by
      rw [tick_decPending, Bool.or_eq_true, Bool.and_eq_true, Bool.not_eq_true',
        show s.dec - BitVec.ofNat 32 0 = s.dec from BitVec.sub_zero _]
      rfl
    rw [ticks, ih, first, tick_dec, Nat.exists_lt_succ_left, or_assoc]
    simp only [hsub]

/-- Settles O24: the two counters and the frame are `ticks_eq`, the request is by induction over the ticks. -/
theorem ticksCountAndSignal : Obligations.TicksCountAndSignal := by
  unfold Obligations.TicksCountAndSignal
  intro n s
  refine ⟨?_, ?_, ticks_decPending_iff n s, ?_⟩
  · rw [ticks_eq]
  · rw [ticks_eq]
  · rw [ticks_eq]

/-- Settles O25: each clause is one branch of `asynchronous`. -/
theorem boundaryExceptionOrder : Obligations.BoundaryExceptionOrder := by
  unfold Obligations.BoundaryExceptionOrder
  intro inp s
  refine ⟨fun h => if_pos h, fun h1 h2 h3 => ?_, fun h1 h2 h3 => ?_,
    fun h1 h2 => ⟨fun h3 h4 => ?_, fun h3 h4 h5 => ?_, fun h3 h4 h5 => ?_, fun h3 => ?_⟩, fun rest hin => ?_⟩
  · simp [asynchronous, h1, h2, h3]
  · simp [asynchronous, h1, h2, h3]
  · simp [asynchronous, h1, h2, h3, h4]
  · simp [asynchronous, h1, h2, h3, h4, h5]
  · simp [asynchronous, h1, h2, h3, h4, h5]
  · simp [asynchronous, h1, h2, h3]
  · simp [boundary, boundaryInput, hin]

/-! ## Data accesses: the breakpoint, alignment and external control (R104, R284, R301, R342, R343) -/

/-- Settles O26: the enable of the access's kind and of translation, and one byte in the double word of the DABR. -/
theorem dataBreakpointMatch : Obligations.DataBreakpointMatch := by
  unfold Obligations.DataBreakpointMatch
  intro s kind ea n hd
  simp only [dabrMatch, hd, Bool.true_and, Bool.and_eq_true, beq_iff_eq, List.any_eq_true, List.mem_range]
  cases kind with
  | load =>
    simp only [reduceCtorEq, false_and, false_or, true_and]
    exact ⟨fun ⟨⟨hdr, hen⟩, k, hk, hm⟩ => ⟨k, hk, hm, hdr, hen⟩, fun ⟨k, hk, hm, hdr, hen⟩ => ⟨⟨hdr, hen⟩, k, hk, hm⟩⟩
  | store =>
    simp only [reduceCtorEq, false_and, or_false, true_and]
    exact ⟨fun ⟨⟨hdr, hen⟩, k, hk, hm⟩ => ⟨k, hk, hm, hdr, hen⟩, fun ⟨k, hk, hm, hdr, hen⟩ => ⟨⟨hdr, hen⟩, k, hk, hm⟩⟩

theorem checkAlignment_of_allowed {ea : Word} {s : State} (h : wordAligned ea = true ∨ s.cfg.misaligned = .bytewise)
    (k : Out) : checkAlignment ea s k = k := by
  rcases h with h | h <;> simp [checkAlignment, h]

section
variable {kind : Access} {ea : Word} {n : Nat} {s : State} {k : Out}

theorem dataAccess_of_match (h : dabrMatch s kind ea n = true) :
    dataAccess kind ea n s k = raiseDsi kind dsisrDabr ea s := if_pos h

theorem dataAccess_of_refusal {r : Refusal} (h : dabrMatch s kind ea n = false) (hr : accessRefusal s ea n = some r) :
    dataAccess kind ea n s k = .refused r := by simp [dataAccess, h, hr]

theorem dataAccess_of_transfer (h : dabrMatch s kind ea n = false) (hr : accessRefusal s ea n = none) :
    dataAccess kind ea n s k = k := by simp [dataAccess, h, hr]

/-- An access of no bytes matches no breakpoint. -/
theorem dabrMatch_zero : dabrMatch s kind ea 0 = false := by simp [dabrMatch]

end

/-- The DSI exception where entry goes on: the DAR, and the cause with the mark of a store (R342). -/
theorem raiseDsi_of_big_endian {s : State} (h : msrILE s.msr = false) (kind : Access) (cause : Word32) (ea : Word) :
    raiseDsi kind cause ea s = .next (entered .dsi s.pc
      { s with dar := effective s ea, dsisr := cause ||| (match kind with | .load => 0 | .store => dsisrStore) }) :=
  enter_of_big_endian (s := dsiRegisters kind cause ea s) h _ _

/-! ### The loads and stores, past the checks of their own -/

theorem exec_lwz (s : State) (rD rA : GprNum) (d : BitVec 16) :
    exec (.lwz rD rA d) s = checkAlignment (eaDisp s rA d) s (dataAccess .load (eaDisp s rA d) 4 s
      (.next (advance (writeGpr s rD (zextWord (loadWord s (eaDisp s rA d))))))) := rfl

theorem exec_lswx_of_valid {s : State} {rD rA rB : GprNum} (h : lswxInvalid rD rA rB (xerByteCount s.xer) = false)
    (hn : xerByteCount s.xer ≠ 0) :
    exec (.lswx rD rA rB) s = dataAccess .load (eaIndexed s rA rB) (xerByteCount s.xer) s
      (.next (advance (loadString s rD (eaIndexed s rA rB) (xerByteCount s.xer)))) := by
  simp [exec, execLswx, h, hn]

theorem exec_lswx_of_empty {s : State} {rD rA rB : GprNum} (h : lswxInvalid rD rA rB (xerByteCount s.xer) = false)
    (hn : xerByteCount s.xer = 0) :
    exec (.lswx rD rA rB) s = .next (advance (writeGpr s rD (freeValue .lswxEmpty s))) := by
  rw [hn] at h
  simp [exec, execLswx, h, hn]

theorem exec_stswx (s : State) (rS rA rB : GprNum) :
    exec (.stswx rS rA rB) s = dataAccess .store (eaIndexed s rA rB) (xerByteCount s.xer) s
      (.next (advance (storeBytes s (eaIndexed s rA rB) (xerByteCount s.xer) (storedByte s rS)))) := rfl

theorem exec_eciwx {s : State} (h : s.cfg.hasEar = true) (rD rA rB : GprNum) :
    exec (.eciwx rD rA rB) s = externalControl .load (eaIndexed s rA rB) s
      (.next (advance (writeGpr s rD
        (zextWord (deviceRead s (earRid s.cfg (contextEar s)) (eaIndexed s rA rB)))))) :=
  presentIf_of_true h _

theorem exec_ecowx {s : State} (h : s.cfg.hasEar = true) (rS rA rB : GprNum) :
    exec (.ecowx rS rA rB) s = externalControl .store (eaIndexed s rA rB) s
      (.next (advance (deviceSend s (earRid s.cfg (contextEar s)) (eaIndexed s rA rB) (lowWord (readGpr s rS))))) :=
  presentIf_of_true h _

/-! ### External control, check by check -/

section
variable {kind : Access} {ea : Word} {s : State} {k : Out}

theorem externalControl_of_misaligned (h : wordAligned ea = false) :
    externalControl kind ea s k = .refused .misalignedExternalControl := by simp [externalControl, h]

theorem externalControl_of_disabled (h : wordAligned ea = true) (he : earEnabled (contextEar s) = false) :
    externalControl kind ea s k = raiseDsi kind dsisrExternalControl ea s := by simp [externalControl, h, he]

variable (h : wordAligned ea = true) (he : earEnabled (contextEar s) = true)
include h he

theorem externalControl_of_match (hm : dabrMatch s kind ea 4 = true) :
    externalControl kind ea s k = raiseDsi kind dsisrDabr ea s := by simp [externalControl, h, he, hm]

theorem externalControl_of_translation (hm : dabrMatch s kind ea 4 = false) (hd : msrDR (contextMsr s) = true) :
    externalControl kind ea s k = .refused .addressTranslation := by simp [externalControl, h, he, hm, hd]

theorem externalControl_of_transfer (hm : dabrMatch s kind ea 4 = false) (hd : msrDR (contextMsr s) = false) :
    externalControl kind ea s k = k := by simp [externalControl, h, he, hm, hd]

end

/-- Settles O27: each instruction reaches its breakpoint or EAR[E] check, and the exception's registers are those of
`raiseDsi_of_big_endian`. -/
theorem dataAccessesRaiseDsi : Obligations.DataAccessesRaiseDsi := by
  unfold Obligations.DataAccessesRaiseDsi
  intro s hile
  refine ⟨fun rD rA d ha hm => ?_, fun rD rA rB hv hm => ?_, fun rS rA rB hm => ?_,
    fun r rA rB hx ha => ⟨fun he => ⟨?_, ?_⟩, fun he => ⟨fun hm => ?_, fun hm => ?_⟩⟩⟩
  · rw [exec_lwz, checkAlignment_of_allowed ha, dataAccess_of_match hm, raiseDsi_of_big_endian hile]; rfl
  · have hn : xerByteCount s.xer ≠ 0 := fun h0 => by
      rw [h0, dabrMatch_zero] at hm; cases hm
    rw [exec_lswx_of_valid hv hn, dataAccess_of_match hm, raiseDsi_of_big_endian hile]; rfl
  · rw [exec_stswx, dataAccess_of_match hm, raiseDsi_of_big_endian hile]; rfl
  · rw [exec_eciwx hx, externalControl_of_disabled ha he, raiseDsi_of_big_endian hile]; rfl
  · rw [exec_ecowx hx, externalControl_of_disabled ha he, raiseDsi_of_big_endian hile]; rfl
  · rw [exec_eciwx hx, externalControl_of_match ha he hm, raiseDsi_of_big_endian hile]; rfl
  · rw [exec_ecowx hx, externalControl_of_match ha he hm, raiseDsi_of_big_endian hile]; rfl

/-- Settles O28: the parameter decides, before the access is looked at. -/
theorem misalignedLoadWord : Obligations.MisalignedLoadWord := by
  unfold Obligations.MisalignedLoadWord
  intro s rD rA d ha
  rw [exec_lwz]
  refine ⟨fun hp hile => ⟨lowWord (freeValue .dsisrAlignment s), ?_⟩, fun hp => ?_⟩
  · simp only [checkAlignment, ha, hp, Bool.false_eq_true, if_false]
    exact enter_of_big_endian (s := alignmentRegisters (eaDisp s rA d) s) hile _ _
  · simp [checkAlignment, ha, hp]

/-! ## Forms and operands that stop (D24, R158) -/

theorem exec_of_absent {i : Instr} {s : State} (hseg : segmentInstr i = false) (hx : existsOn s.cfg i = false) :
    exec i s = .refused .absentOnImplementation := by
  cases i with
  | mtsr | mtsrin | mfsr | mfsrin => cases hseg
  | mtmsr | mtmsrd | rfi | rfid | slbie | slbia | eciwx | ecowx => exact presentIf_of_false hx _
  | _ => cases hx

theorem lswxInvalid_iff (rD rA rB : GprNum) (n : Nat) : lswxInvalid rD rA rB n = true ↔ rD = rA ∨ rD = rB ∨
    ∃ j < (n + 3) / 4, rD + BitVec.ofNat 5 j = rA ∨ rD + BitVec.ofNat 5 j = rB := by
  simp [lswxInvalid, stringRegs, stringReg, or_assoc]

theorem exec_lswx_of_invalid {s : State} {rD rA rB : GprNum} (h : lswxInvalid rD rA rB (xerByteCount s.xer) = true) :
    exec (.lswx rD rA rB) s = .refused .invalidForm := if_pos h

theorem compareInto_of_invalid {s : State} (h : is64 s.cfg = false) (f : FieldNum) (v : BitVec 4) :
    compareInto s f true v = .refused .invalidForm := if_neg (by simp [compareFormOk, h])

/-- Settles O29: the form is checked before anything is written. -/
theorem invalidFormsStop : Obligations.InvalidFormsStop := by
  unfold Obligations.InvalidFormsStop
  intro s
  refine ⟨fun i => exec_of_absent, fun bo bi lk h => if_neg ?_, fun h f rA rB v => ?_, fun rD rA rB h => ?_⟩
  · rw [bo2, h]; exact Bool.false_ne_true
  · exact ⟨compareInto_of_invalid h _ _, compareInto_of_invalid h _ _, compareInto_of_invalid h _ _,
      compareInto_of_invalid h _ _⟩
  · exact exec_lswx_of_invalid ((lswxInvalid_iff _ _ _ _).2 h)

/-! ### The MSR values that a move or a return may not establish -/

theorem merge_low_word (a b : Word) :
    merge a b 0x00000000FFFFFFFF = (a &&& 0xFFFFFFFF00000000) ||| (b &&& 0x00000000FFFFFFFF) := rfl

theorem merge_rfi (a b : Word) :
    merge a b 0x0000000087C0FFFF = (a &&& 0xFFFFFFFF783F0000) ||| (b &&& 0x0000000087C0FFFF) := rfl

theorem merge_rfid (a b : Word) :
    merge a b 0xFFFFFFFF87C0FFFF = (a &&& 0x00000000783F0000) ||| (b &&& 0xFFFFFFFF87C0FFFF) := rfl

theorem exec_mtmsr {s : State} (hu : userMode s = false) (hw : is64 s.cfg = false ∨ hasBridge s.cfg = true)
    (rS : GprNum) : exec (.mtmsr rS) s = moveToMsr s (mtmsrValue s (readGpr s rS)) := by
  rw [exec, execMtmsr, presentIf_of_true (by simpa using hw), supervisorOnly_of_supervisor hu]

theorem exec_mtmsrd {s : State} (hu : userMode s = false) (hw : is64 s.cfg = true) (rS : GprNum) :
    exec (.mtmsrd rS) s = moveToMsr s (readGpr s rS) := by
  rw [exec, execMtmsrd, presentIf_of_true hw, supervisorOnly_of_supervisor hu]

theorem mtmsrValue_of_32 {s : State} (h : is64 s.cfg = false) (v : Word) : mtmsrValue s v = low32 v :=
  if_neg (by simp [h])

theorem mtmsrValue_of_bridge {s : State} (h : hasBridge s.cfg = true) (v : Word) :
    mtmsrValue s v = (s.msr &&& 0xFFFFFFFF00000000) ||| (v &&& 0x00000000FFFFFFFF) :=
  (if_pos (is64_of_bridge h)).trans (merge_low_word _ _)

/-- The moves to the MSR, each with the value it establishes (R196 to R198). -/
theorem exec_moveToMsr {s : State} (hu : userMode s = false) {rS : GprNum} {i : Instr} {m : Word}
    (h : (i = .mtmsr rS ∧ is64 s.cfg = false ∧ m = low32 (readGpr s rS)) ∨
      (i = .mtmsr rS ∧ hasBridge s.cfg = true ∧
        m = (s.msr &&& 0xFFFFFFFF00000000) ||| (readGpr s rS &&& 0x00000000FFFFFFFF)) ∨
      (i = .mtmsrd rS ∧ is64 s.cfg = true ∧ m = readGpr s rS)) : exec i s = moveToMsr s m := by
  rcases h with ⟨rfl, hw, rfl⟩ | ⟨rfl, hb, rfl⟩ | ⟨rfl, hw, rfl⟩
  · rw [exec_mtmsr hu (.inl hw), mtmsrValue_of_32 hw]
  · rw [exec_mtmsr hu (.inr hb), mtmsrValue_of_bridge hb]
  · exact exec_mtmsrd hu hw rS

theorem moveToMsr_of_unsupported {s : State} {m : Word} {r : Refusal} (h : unsupportedMsr s.cfg m = some r) :
    moveToMsr s m = .refused r := by simp [moveToMsr, h]

theorem moveToMsr_of_supported {s : State} {m : Word} (h : unsupportedMsr s.cfg m = none) :
    moveToMsr s m = .next { writeMsr s m with pc := nextPc s } := by simp [moveToMsr, h]

theorem unsupportedMsr_order (p : Params) (m : Word) :
    (p.hasPow = true → m.getLsbD 18 = true → unsupportedMsr p m = some .powerManagement) ∧
    (p.hasPow = false ∨ m.getLsbD 18 = false →
      (m.getLsbD 0 = true → unsupportedMsr p m = some .littleEndianMode) ∧
      (m.getLsbD 0 = false → m.getLsbD 5 = true ∨ m.getLsbD 4 = true →
        unsupportedMsr p m = some .addressTranslation) ∧
      (m.getLsbD 0 = false → m.getLsbD 5 = false → m.getLsbD 4 = false → unsupportedMsr p m = none)) := by
  unfold unsupportedMsr msrPOW msrLE msrIR msrDR
  refine ⟨fun hp h => by rw [hp, h]; rfl, fun hp => ?_⟩
  have hpow : (p.hasPow && m.getLsbD 18) = false := by
    rcases hp with hp | hp
    · rw [hp, Bool.false_and]
    · rw [hp, Bool.and_false]
  rw [hpow]
  refine ⟨fun h0 => by rw [h0]; rfl, fun h0 h => ?_, fun h0 h5 h4 => by rw [h0, h5, h4]; rfl⟩
  have htr : (m.getLsbD 5 || m.getLsbD 4) = true := Bool.or_eq_true_iff.2 h
  rw [h0, htr]
  rfl

/-! ### The reasons a data access cannot be transferred -/

section
variable {s : State} {n : Nat} (ea : Word) (hn : n ≠ 0)
include hn

theorem accessRefusal_translation (h : msrDR (contextMsr s) = true) :
    accessRefusal s ea n = some .addressTranslation := by simp [accessRefusal, hn, h]

theorem accessRefusal_unmapped (h : msrDR (contextMsr s) = false)
    (hm : ∃ k < n, mapped s.cfg (byteAddr s ea k) = false) : accessRefusal s ea n = some .noMemory := by
  have hall : (List.range n).all (fun k => mapped s.cfg (byteAddr s ea k)) = false := by
    obtain ⟨k, hk, hm⟩ := hm
    exact List.all_eq_false.2 ⟨k, List.mem_range.2 hk, by simp [hm]⟩
  simp only [accessRefusal, hn, h, hall, if_false, Bool.false_eq_true, Bool.not_false, if_true]

theorem accessRefusal_littleEndian (h : msrDR (contextMsr s) = false)
    (hm : ∀ k < n, mapped s.cfg (byteAddr s ea k) = true) (hle : msrLE (contextMsr s) = true) :
    accessRefusal s ea n = some .littleEndianMode := by
  have hall : (List.range n).all (fun k => mapped s.cfg (byteAddr s ea k)) = true :=
    List.all_eq_true.2 fun k hk => hm k (List.mem_range.1 hk)
  simp only [accessRefusal, hn, h, hall, hle, if_false, Bool.false_eq_true, Bool.not_true, if_true]

end

/-- A write that no source defines is refused by its value, where the level may write the register. -/
theorem exec_mtspr_of_refusal {s : State} {n : SprNum} {q : Spr} {r : Refusal} {rS : GprNum}
    (hn : writableSpr s.cfg n = some q) (hu : userMode s = false)
    (hr : sprWriteRefusal s q (readGpr s rS) = some r) : exec (.mtspr n rS) s = .refused r := by
  simp [exec, execMtspr, hn, hu, hr]

/-- Settles O30: in supervisor mode the value written is checked last, an access is checked in the order of
`accessRefusal`, and external control in that of `externalControl`. -/
theorem undefinedOperandsStop : Obligations.UndefinedOperandsStop := by
  unfold Obligations.UndefinedOperandsStop
  refine ⟨unsupportedMsr_order, fun s => ⟨fun hu => ⟨fun n rS i hn hi hv => ?_, fun rS hd => ?_,
    fun rS i m r hr hi => ?_, fun i hi hb => ?_⟩, fun rD rA d r ha hm hr => ?_, fun rD rA rB r hv hm hr => ?_,
    fun rS rA rB r hm hr => ?_, fun ea n hn => ?_, fun r rA rB hx => ⟨fun ha => ⟨?_, ?_⟩,
    fun ha he hd => ⟨fun hm => ?_, fun hm => ?_⟩⟩⟩⟩
  · refine exec_mtspr_of_refusal hn hu ?_
    have hv' : (readGpr s rS &&& 0x48 != 0) = true := bne_iff_ne.2 hv
    simp only [sprWriteRefusal, hi, hv', decide_true, Bool.and_self, if_true]
  · have hn : writableSpr s.cfg 25 = some .sdr1 := (writableSpr_eq_some_iff _ _ _).2 ⟨by decide, rfl, rfl⟩
    exact exec_mtspr_of_refusal hn hu (if_pos (Bool.or_eq_true_iff.2 hd))
  · rcases hi with hi | hi | hi | ⟨rfl, hw, rfl⟩ | ⟨rfl, hw, rfl⟩
    · rw [exec_moveToMsr hu (.inl hi), moveToMsr_of_unsupported hr]
    · rw [exec_moveToMsr hu (.inr (.inl hi)), moveToMsr_of_unsupported hr]
    · rw [exec_moveToMsr hu (.inr (.inr hi)), moveToMsr_of_unsupported hr]
    · rw [← merge_rfi] at hr
      rw [exec_rfi hu hw, returnFromException_of_unsupported hr]
    · rw [← merge_rfid] at hr
      rw [exec_rfid hu hw, returnFromException_of_unsupported hr]
  · cases i with
    | mtsr | mtsrin | mfsr | mfsrin => exact (segmentMove_of_bridge hb _).trans (supervisorOnly_of_supervisor hu _)
    | _ => cases hi
  · rw [exec_lwz, checkAlignment_of_allowed ha, dataAccess_of_refusal hm hr]
  · have hn : xerByteCount s.xer ≠ 0 := fun h0 => by
      rw [h0] at hr; cases hr
    rw [exec_lswx_of_valid hv hn, dataAccess_of_refusal hm hr]
  · rw [exec_stswx, dataAccess_of_refusal hm hr]
  · exact ⟨accessRefusal_translation ea hn, accessRefusal_unmapped ea hn, accessRefusal_littleEndian ea hn⟩
  · rw [exec_eciwx hx, externalControl_of_misaligned ha]
  · rw [exec_ecowx hx, externalControl_of_misaligned ha]
  · rw [exec_eciwx hx, externalControl_of_translation ha he hm hd]
  · rw [exec_ecowx hx, externalControl_of_translation ha he hm hd]

end Sys2Proof.Machine
end

section
/-! Register moves (40_register_moves.md): the SPRs, the time base, the MSR and the segment registers. -/

namespace Sys2Proof.Machine

open Sys2Proof.Config

/-- An instruction that writes one general register and goes on changes nothing else. -/
theorem onlyGpr_advance_writeGpr (s : State) (r : GprNum) (v : Word) : OnlyGpr r s (advance (writeGpr s r v)) where
  gprs _ hq := readGpr_writeGpr_other s v hq
  memory _ := rfl
  rest := rfl

/-! ## Reading an SPR (R182 to R184) -/

/-- The reserved bits of an SPR (R46, R71, R72, R77, R81, R105). -/
def sprReserved (p : Params) : Spr → Word
  | .xer => zextWord xerReserved
  | .sdr1 => sdr1Reserved p
  | .asr => asrReserved p
  | .ear => zextWord (earReserved p)
  | .ibat i | .dbat i => batReserved i
  | _ => 0

theorem zextWord_lowWord_of_fits {v : Word} (h : ∀ k, 32 ≤ k → v.getLsbD k = false) : zextWord (lowWord v) = v := by
  apply BitVec.eq_of_getLsbD_eq
  intro k _
  rw [getLsbD_zextWord, getLsbD_lowWord]
  by_cases hk : k < 32
  · simp [hk]
  · simp [hk, h k (by omega)]

/-- **mfspr** reads a defined bit as it is stored, and a reserved one as R20 has it. -/
theorem readSpr_eq (s : State) (r : Spr) :
    readSpr s r = readReserved (storedSpr s r) (sprReserved s.cfg r) (freeValue .reservedBits s) := by
  have whole (v f : Word) : v = readReserved v 0 f := (if_pos (BitVec.and_zero)).symm
  cases r with
  | xer =>
    refine zextWord_lowWord_of_fits fun k hk => ?_
    rw [getLsbD_readReserved, getLsbD_zextWord, BitVec.getLsbD_of_ge s.xer k hk, Bool.false_and]
  | sdr1 | asr | ear | ibat | dbat => rfl
  | _ => exact whole _ _

theorem getLsbD_readSpr_of_defined {s : State} {r : Spr} {k : Nat} (h : (sprReserved s.cfg r).getLsbD k = false) :
    (readSpr s r).getLsbD k = (storedSpr s r).getLsbD k := by simp [readSpr_eq, getLsbD_readReserved, h]

theorem getLsbD_readSpr_of_zero {s : State} {r : Spr} {k : Nat} (h : (storedSpr s r).getLsbD k = false) :
    (readSpr s r).getLsbD k = false := by simp [readSpr_eq, getLsbD_readReserved, h]

theorem xerReserved_defined {k : Nat} (h : k < 7 ∨ 29 ≤ k) : xerReserved.getLsbD k = false := by
  by_cases hk : k < 32
  · have all : ∀ k < 32, (k < 7 ∨ 29 ≤ k) → xerReserved.getLsbD k = false := by decide
    exact all k hk h
  · exact BitVec.getLsbD_of_ge _ _ (by omega)

theorem earReserved_defined {p : Params} {k : Nat} (h : k < p.ridBits.val ∨ k = 31) :
    (earReserved p).getLsbD k = false := by
  have all : ∀ (b : Fin 7) (k : Fin 32), k.val < b.val ∨ k.val = 31 →
      (0x7FFFFFC0#32 ||| (0x3F#32 &&& ~~~((1#32 <<< b.val) - 1))).getLsbD k.val = false := by decide
  have hk : k < 32 := by have := p.ridBits.isLt; omega
  exact all p.ridBits ⟨k, hk⟩ h

theorem exec_mfspr_of_readable {s : State} {n : SprNum} {r : Spr} (rD : GprNum) (hn : readableSpr s.cfg n = some r)
    (hl : userMode s = false ∨ r.userLevel = true) :
    exec (.mfspr rD n) s = .next (advance (writeGpr s rD (readSpr s r))) := by
  rcases hl with hl | hl <;> simp [exec, execMfspr, hn, hl]

theorem sprPresent_iff (p : Params) (r : Spr) : sprPresent p r = true ↔
    (r = .asr → is64 p = true) ∧ (r = .ear → p.hasEar = true) ∧ (r = .dabr → p.hasDabr = true) ∧
      (r = .fpecr → p.hasFpecr = true) ∧ (r = .pir → p.hasPir = true) := by
  cases r <;> simp [sprPresent]

/-- The registers that can be read: those of R114 but the two halves of the time base. -/
theorem readableSpr_iff (p : Params) (n : SprNum) (r : Spr) : readableSpr p n = some r ↔
    (n.toNat, r) ∈ sprNumbers.filter (fun e => e.2.readable) ∧ sprPresent p r = true := by
  rw [readableSpr_eq_some_iff, List.mem_filter]
  tauto

/-- The registers that can be written: those of R114 but the PVR. -/
theorem writableSpr_iff (p : Params) (n : SprNum) (r : Spr) : writableSpr p n = some r ↔
    (n.toNat, r) ∈ sprNumbers.filter (fun e => e.2.writable) ∧ sprPresent p r = true := by
  rw [writableSpr_eq_some_iff, List.mem_filter]
  tauto

/-- Settles O31: the numbers are the table's, and a read differs from the stored value in reserved bits alone. -/
theorem mfsprResult : Obligations.MfsprResult := by
  unfold Obligations.MfsprResult
  refine ⟨fun p n r => ?_, fun s rD n r hn hl => ?_⟩
  · rw [readableSpr_iff, sprPresent_iff]
    rfl
  have hl' : userMode s = false ∨ r.userLevel = true := hl.imp_right r.userLevel_iff.2
  refine ⟨_, readSpr s r, exec_mfspr_of_readable rD hn hl', readGpr_advance_writeGpr s rD _, rfl,
    onlyGpr_advance_writeGpr s rD _, fun hr => ?_, fun k => getLsbD_readSpr_of_zero, ?_, ?_, ?_, ?_, ?_, ?_⟩
  · simp only [List.mem_cons, List.not_mem_nil, or_false] at hr
    rcases hr with rfl | rfl | rfl | rfl | rfl | rfl | rfl | rfl | rfl | rfl | rfl | rfl | rfl | rfl | rfl <;> rfl
  · rintro rfl k hk
    exact getLsbD_readSpr_of_defined ((getLsbD_zextWord _ _).trans (xerReserved_defined hk))
  · rintro rfl k hk
    exact getLsbD_readSpr_of_defined (r := .sdr1) hk
  · rintro rfl k hk
    exact getLsbD_readSpr_of_defined (r := .asr) hk
  · rintro rfl k hk
    exact (getLsbD_readSpr_of_defined (r := .ear) ((getLsbD_zextWord _ _).trans (earReserved_defined hk))).trans
      (getLsbD_zextWord _ _)
  · rintro i rfl k hk
    exact getLsbD_readSpr_of_defined (r := .ibat i) hk
  · rintro i rfl k hk
    exact getLsbD_readSpr_of_defined (r := .dbat i) hk

/-! ## Writing an SPR (R186 to R192) -/

theorem exec_mtspr_of_writable {s : State} {n : SprNum} {r : Spr} {rS : GprNum} (hn : writableSpr s.cfg n = some r)
    (hl : userMode s = false ∨ r.userLevel = true) (hv : sprWriteRefusal s r (readGpr s rS) = none) :
    exec (.mtspr n rS) s = .next (advance (writeSpr s r (readGpr s rS))) := by
  rcases hl with hl | hl <;> simp [exec, execMtspr, hn, hl, hv]

/-- A value that the spec lets be written is not refused (R76, R408). -/
theorem sprWriteRefusal_of_allowed {s : State} {r : Spr} {v : Word}
    (hi : ∀ i : Fin 8, r = .ibat i → i.val % 2 = 1 → v &&& 0x48 = 0)
    (hs : r = .sdr1 → msrIR (contextMsr s) = false ∧ msrDR (contextMsr s) = false) :
    sprWriteRefusal s r v = none := by
  cases r with
  | sdr1 => simp [sprWriteRefusal, hs rfl]
  | ibat i =>
    refine if_neg ?_
    rw [Bool.and_eq_true, decide_eq_true_eq, bne_iff_ne]
    exact fun ⟨hodd, hne⟩ => hne (hi i rfl hodd)
  | _ => rfl

theorem zextWord_lowWord (v : Word) : zextWord (lowWord v) = v &&& 0x00000000FFFFFFFF := by
  apply BitVec.eq_of_getLsbD_eq
  intro k _
  exact (getLsbD_zextWord _ _).trans ((getLsbD_lowWord v k).trans (getLsbD_low32 v k).symm)

theorem getLsbD_low_half (k : Nat) : (0x00000000FFFFFFFF : Word).getLsbD k = decide (k < 32) := by
  have h := getLsbD_low32 (BitVec.allOnes 64) k
  rw [low32, BitVec.allOnes_and] at h
  rw [h]
  by_cases hk : k < 32
  · rw [BitVec.getLsbD_allOnes, decide_eq_true (show k < 64 by omega), Bool.and_true]
  · simp only [hk, decide_false, Bool.false_and]

theorem getLsbD_high_half {k : Nat} (hk : k < 64) : (0xFFFFFFFF00000000 : Word).getLsbD k = decide (32 ≤ k) := by
  have e : (0xFFFFFFFF00000000 : Word) = ~~~0x00000000FFFFFFFF := by decide
  rw [e, BitVec.getLsbD_not, getLsbD_low_half]
  by_cases h : k < 32
  · simp [h, hk]
  · simp [h, hk, show 32 ≤ k by omega]

/-- Writing one half of the time base leaves the other (R188). -/
theorem tb_write_low (tb v : Word) : let t := merge tb (v &&& 0x00000000FFFFFFFF) 0x00000000FFFFFFFF
    t.setWidth 32 = lowWord v ∧ t.extractLsb' 32 32 = tb.extractLsb' 32 32 := by
  refine ⟨BitVec.eq_of_getLsbD_eq fun k hk => ?_, BitVec.eq_of_getLsbD_eq fun k hk => ?_⟩
  · simp only [BitVec.getLsbD_setWidth, getLsbD_merge, getLsbD_low_half, BitVec.getLsbD_and, getLsbD_lowWord, hk,
      decide_true, if_true, Bool.and_true]
  · simp only [BitVec.getLsbD_extractLsb', getLsbD_merge, getLsbD_low_half, decide_eq_true_eq,
      show ¬32 + k < 32 by omega, if_false]

theorem tb_write_high (tb v : Word) : let t := merge tb (v <<< 32) 0xFFFFFFFF00000000
    t.extractLsb' 32 32 = lowWord v ∧ t.setWidth 32 = tb.setWidth 32 := by
  refine ⟨BitVec.eq_of_getLsbD_eq fun k hk => ?_, BitVec.eq_of_getLsbD_eq fun k hk => ?_⟩
  · rw [BitVec.getLsbD_extractLsb', getLsbD_merge, getLsbD_high_half (by omega), getLsbD_lowWord]
    simp [hk]
    omega
  · rw [BitVec.getLsbD_setWidth, getLsbD_merge, getLsbD_high_half (by omega)]
    simp [hk, show ¬32 ≤ k by omega]

section
variable (s : State) (r : Spr) (v : Word)

/-- A 32-bit register takes the low-order word (R183). -/
theorem storedSpr_writeSpr_narrow (hw : r.writable = true) (hr : r.narrow = true) :
    storedSpr (writeSpr s r v) r = v &&& 0x00000000FFFFFFFF := by
  cases r with
  | xer | dsisr | dec | ear | fpecr | pir => exact zextWord_lowWord v
  | tbl => exact (congrArg zextWord (tb_write_low s.tb v).1).trans (zextWord_lowWord v)
  | tbu => exact (congrArg zextWord (tb_write_high s.tb v).1).trans (zextWord_lowWord v)
  | pvr => cases hw
  | _ => cases hr

/-- A register of W bits takes the value modulo 2^W. -/
theorem storedSpr_writeSpr_wide (hr : r.narrow = false) (ha : r ≠ .asr) :
    storedSpr (writeSpr s r v) r = toWidth s.cfg v := by
  cases r with
  | lr | ctr | dar | sdr1 | srr0 | srr1 | dabr => rfl
  | sprg | ibat | dbat => exact Vector.getElem_set_self _
  | asr => exact absurd rfl ha
  | _ => cases hr

/-- No other SPR changes. -/
theorem storedSpr_writeSpr_other {q : Spr} (hq : q ≠ r) : storedSpr (writeSpr s r v) q = storedSpr s q := by
  cases q with
  | tbl =>
    cases r with
    | tbu => exact congrArg zextWord (tb_write_high s.tb v).2
    | tbl => exact absurd rfl hq
    | _ => rfl
  | tbu =>
    cases r with
    | tbl => exact congrArg zextWord (tb_write_low s.tb v).2
    | tbu => exact absurd rfl hq
    | _ => rfl
  | sprg j =>
    cases r with
    | sprg i => exact Vector.getElem_set_ne i.isLt j.isLt fun h => hq (congrArg Spr.sprg (Fin.ext h.symm))
    | _ => rfl
  | ibat j =>
    cases r with
    | ibat i => exact Vector.getElem_set_ne i.isLt j.isLt fun h => hq (congrArg Spr.ibat (Fin.ext h.symm))
    | _ => rfl
  | dbat j =>
    cases r with
    | dbat i => exact Vector.getElem_set_ne i.isLt j.isLt fun h => hq (congrArg Spr.dbat (Fin.ext h.symm))
    | _ => rfl
  | _ => cases r <;> simp_all [storedSpr, writeSpr]

/-- A DEC whose bit 0 goes from zero to one signals a request (R189). -/
theorem writeSpr_decPending : (writeSpr s r v).decPending = true ↔ s.decPending = true ∨
    (r = .dec ∧ s.dec.getLsbD 31 = false ∧ v.getLsbD 31 = true) := by
  cases r with
  | dec =>
    have hbit : (lowWord v).getLsbD 31 = v.getLsbD 31 := getLsbD_lowWord v 31
    show (s.decPending || (!s.dec.getLsbD 31 && (lowWord v).getLsbD 31)) = true ↔ _
    rw [hbit, Bool.or_eq_true, Bool.and_eq_true, Bool.not_eq_true']
    simp only [true_and]
  | _ => simp [writeSpr]

theorem writeSpr_windows_asr : (writeSpr s r v).windows.asr = true ↔
    s.windows.asr = true ∨ (r = .asr ∧ v ≠ s.asr) := by cases r <;> simp [writeSpr]

theorem writeSpr_windows_sdr1 : (writeSpr s r v).windows.sdr1 = true ↔
    s.windows.sdr1 = true ∨ (r = .sdr1 ∧ toWidth s.cfg v ≠ s.sdr1) := by cases r <;> simp [writeSpr]

theorem writeSpr_windows_ear : (writeSpr s r v).windows.ear =
    if r = .ear ∧ v.setWidth 32 ≠ s.ear then s.ear :: s.windows.ear else s.windows.ear := by
  cases r with
  | ear => by_cases h : v.setWidth 32 = s.ear <;> simp [writeSpr, lowWord, h]
  | _ => simp [writeSpr]

theorem writeSpr_windows_ibat (j : Fin 8) : (writeSpr s r v).windows.ibat.getLsbD j = true ↔
    s.windows.ibat.getLsbD j = true ∨ (r = .ibat j ∧ toWidth s.cfg v ≠ s.ibat[j.val]'j.isLt) := by
  cases r with
  | ibat i =>
    show (openAt _ i.val _).getLsbD j.val = true ↔ _
    rw [getLsbD_openAt _ _ j.isLt, Bool.or_eq_true, Bool.and_eq_true, bne_iff_ne, decide_eq_true_eq, Spr.ibat.injEq,
      Fin.ext_iff]
    refine or_congr_right ⟨fun ⟨hne, hij⟩ => ⟨hij, ?_⟩, fun ⟨hij, hne⟩ => ⟨?_, hij⟩⟩
    · simpa only [hij] using hne
    · simpa only [hij] using hne
  | _ => simp [writeSpr]

theorem writeSpr_windows_dbat (j : Fin 8) : (writeSpr s r v).windows.dbat.getLsbD j = true ↔
    s.windows.dbat.getLsbD j = true ∨ (r = .dbat j ∧ toWidth s.cfg v ≠ s.dbat[j.val]'j.isLt) := by
  cases r with
  | dbat i =>
    show (openAt _ i.val _).getLsbD j.val = true ↔ _
    rw [getLsbD_openAt _ _ j.isLt, Bool.or_eq_true, Bool.and_eq_true, bne_iff_ne, decide_eq_true_eq, Spr.dbat.injEq,
      Fin.ext_iff]
    refine or_congr_right ⟨fun ⟨hne, hij⟩ => ⟨hij, ?_⟩, fun ⟨hij, hne⟩ => ⟨?_, hij⟩⟩
    · simpa only [hij] using hne
    · simpa only [hij] using hne
  | _ => simp [writeSpr]

/-- The windows of the MSR, the segment registers, the SLB and the TLB are no SPR's. -/
theorem writeSpr_windows_frame : (writeSpr s r v).windows = { s.windows with
    asr := (writeSpr s r v).windows.asr, sdr1 := (writeSpr s r v).windows.sdr1,
    ibat := (writeSpr s r v).windows.ibat, dbat := (writeSpr s r v).windows.dbat,
    ear := (writeSpr s r v).windows.ear } := by cases r <;> rfl

theorem sameContext_writeSpr : SameContext s (writeSpr s r v) where
  cfg := writeSpr_cfg s r v
  msr := by rw [writeSpr_frame]
  windows := by rw [writeSpr_windows_frame]
  freeCtr := by rw [writeSpr_frame]

theorem advance_writeSpr_pc : (advance (writeSpr s r v)).pc = nextPc s :=
  (sameContext_writeSpr s r v).nextPc (by rw [writeSpr_frame])

/-- The whole frame of an **mtspr** that goes on. -/
theorem advance_writeSpr_frame : advance (writeSpr s r v) = { s with
    xer := (writeSpr s r v).xer, lr := (writeSpr s r v).lr, ctr := (writeSpr s r v).ctr,
    dsisr := (writeSpr s r v).dsisr, dar := (writeSpr s r v).dar, dec := (writeSpr s r v).dec,
    decPending := (writeSpr s r v).decPending, sdr1 := (writeSpr s r v).sdr1, srr0 := (writeSpr s r v).srr0,
    srr1 := (writeSpr s r v).srr1, sprg := (writeSpr s r v).sprg, asr := (writeSpr s r v).asr,
    ear := (writeSpr s r v).ear, tb := (writeSpr s r v).tb, ibat := (writeSpr s r v).ibat,
    dbat := (writeSpr s r v).dbat, dabr := (writeSpr s r v).dabr, fpecr := (writeSpr s r v).fpecr,
    pir := (writeSpr s r v).pir, pc := (advance (writeSpr s r v)).pc,
    windows := { s.windows with
      asr := (writeSpr s r v).windows.asr, sdr1 := (writeSpr s r v).windows.sdr1,
      ibat := (writeSpr s r v).windows.ibat, dbat := (writeSpr s r v).windows.dbat,
      ear := (writeSpr s r v).windows.ear } } := by
  rw [← writeSpr_windows_frame]
  exact congrArg (fun t => { t with pc := (advance (writeSpr s r v)).pc }) (writeSpr_frame s r v)

end

/-- Settles O32: the value, the other registers, the request and each window are the lemmas on `writeSpr` above. -/
theorem mtsprResult : Obligations.MtsprResult := by
  unfold Obligations.MtsprResult
  refine ⟨fun p n r => ?_, fun s rS n r hn hl hi hs => ?_⟩
  · rw [writableSpr_iff, sprPresent_iff]
    rfl
  have hl' : userMode s = false ∨ r.userLevel = true := hl.imp_right r.userLevel_iff.2
  have hw : r.writable = true := ((writableSpr_eq_some_iff _ _ _).1 hn).2.2
  refine ⟨_, exec_mtspr_of_writable hn hl' (sprWriteRefusal_of_allowed hi hs), ?_⟩
  generalize readGpr s rS = v
  refine ⟨?_, storedSpr_writeSpr_narrow s r v hw, storedSpr_writeSpr_wide s r v, ?_,
    fun q => storedSpr_writeSpr_other s r v, writeSpr_decPending s r v, writeSpr_windows_asr s r v,
    writeSpr_windows_sdr1 s r v, writeSpr_windows_ear s r v, writeSpr_windows_ibat s r v,
    writeSpr_windows_dbat s r v, ?_, ?_⟩
  · exact advance_writeSpr_pc s r v
  · rintro rfl; rfl
  · exact fun _ => by rw [advance_mem, writeSpr_mem]
  · exact advance_writeSpr_frame s r v

end Sys2Proof.Machine
end

section
/-! Register moves, continued: the time base, the MSR and the segment registers. -/

namespace Sys2Proof.Machine

open Sys2Proof.Config

/-! ## The time base (R190) -/

theorem exec_mftb_tbl (s : State) (rD : GprNum) : exec (.mftb rD 268) s =
    .next (advance (writeGpr s rD (if is64 s.cfg then s.tb else zextWord (s.tb.setWidth 32)))) := rfl

theorem exec_mftb_tbu (s : State) (rD : GprNum) : exec (.mftb rD 269) s =
    .next (advance (writeGpr s rD (zextWord (s.tb.extractLsb' 32 32)))) := rfl

theorem zextWord_high_half (v : BitVec 64) : zextWord (v.extractLsb' 32 32) = v >>> 32 := by
  apply BitVec.eq_of_getLsbD_eq
  intro k _
  rw [getLsbD_zextWord, BitVec.getLsbD_extractLsb', BitVec.getLsbD_ushiftRight]
  by_cases hk : k < 32
  · simp [hk]
  · simp [hk, BitVec.getLsbD_of_ge v (32 + k) (by omega)]

/-- Settles O33: the two numbers, and what the width of the implementation leaves of the value. -/
theorem mftbResult : Obligations.MftbResult := by
  unfold Obligations.MftbResult
  intro s rD
  refine ⟨_, _, exec_mftb_tbl s rD, exec_mftb_tbu s rD, ?_, ?_, rfl, rfl, onlyGpr_advance_writeGpr s rD _,
    onlyGpr_advance_writeGpr s rD _⟩
  · rw [readGpr_advance_writeGpr]
    cases hp : is64 s.cfg
    · exact (toWidth_zextWord _ _).trans (zextWord_lowWord s.tb)
    · exact if_pos hp
  · rw [readGpr_advance_writeGpr, toWidth_zextWord, zextWord_high_half]

/-! ## The MSR (R194 to R199) -/

theorem exec_mfmsr {s : State} (hu : userMode s = false) (rD : GprNum) :
    exec (.mfmsr rD) s = .next (advance (writeGpr s rD (visibleMsr s))) := supervisorOnly_of_supervisor hu _

/-- Settles O34: the read of R20, which the width of the register does not cut. -/
theorem mfmsrResult : Obligations.MfmsrResult := by
  unfold Obligations.MfmsrResult
  intro s rD hu hf
  refine ⟨_, exec_mfmsr hu rD, rfl, onlyGpr_advance_writeGpr s rD _, fun k hk => ?_, fun k hk => ?_⟩
  · rw [readGpr_advance_writeGpr, show toWidth s.cfg (visibleMsr s) = visibleMsr s from fitsWidth_visibleMsr hf,
      getLsbD_visibleMsr_of_defined hk]
  · rw [readGpr_advance_writeGpr, show toWidth s.cfg (visibleMsr s) = visibleMsr s from fitsWidth_visibleMsr hf,
      getLsbD_visibleMsr_of_zero hk]

theorem getLsbD_writeMsr_windows (s : State) (m : Word) (k : Nat) : (writeMsr s m).windows.msr.getLsbD k =
    (s.windows.msr.getLsbD k || ((s.msr.getLsbD k != m.getLsbD k) && (windowedBits s.cfg).getLsbD k)) := by
  simp only [writeMsr_windows, BitVec.getLsbD_or, BitVec.getLsbD_and, BitVec.getLsbD_xor]

/-- Settles O35: the changed bits among those of R404 join the open windows. -/
theorem moveToMsrResult : Obligations.MoveToMsrResult := by
  unfold Obligations.MoveToMsrResult
  intro s rS i m hu hm hi
  refine ⟨_, (exec_moveToMsr hu hi).trans (moveToMsr_of_supported hm), rfl, rfl, fun k => ?_, fun k hk => ?_,
    fun _ => rfl, rfl⟩
  · show (writeMsr s m).windows.msr.getLsbD k = true ↔ _
    rw [getLsbD_writeMsr_windows, getLsbD_windowedBits]
    simp only [Bool.or_eq_true, Bool.and_eq_true, bne_iff_ne, decide_eq_true_eq]
    tauto
  · show (writeMsr s m).windows.msr.getLsbD k = _
    have hwin : (windowedBits s.cfg).getLsbD k = false := by
      rw [getLsbD_windowedBits]
      simp only [List.mem_cons, List.not_mem_nil, or_false] at hk
      rcases hk with rfl | rfl | rfl | rfl <;> simp
    rw [getLsbD_writeMsr_windows, hwin, Bool.and_false, Bool.or_false]

/-! ## The segment registers (R200 to R206) -/

theorem segmentMove_of_supervisor {s : State} (hw : is64 s.cfg = false) (hu : userMode s = false) (k : Out) :
    segmentMove s k = k := (segmentMove_of_32 hw k).trans (supervisorOnly_of_supervisor hu k)

theorem exec_segmentWrite {s : State} (hw : is64 s.cfg = false) (hu : userMode s = false) {rS rB : GprNum} {n : SrNum}
    {i : Instr} (hi : i = .mtsr n rS ∨ (i = .mtsrin rS rB ∧ n = (readGpr s rB).extractLsb' 28 4)) :
    exec i s = .next (advance (writeSr s n (lowWord (readGpr s rS)))) := by
  rcases hi with rfl | ⟨rfl, rfl⟩
  · exact segmentMove_of_supervisor hw hu _
  · exact segmentMove_of_supervisor hw hu _

theorem exec_segmentRead {s : State} (hw : is64 s.cfg = false) (hu : userMode s = false) {rD rB : GprNum} {n : SrNum}
    {i : Instr} (hi : i = .mfsr rD n ∨ (i = .mfsrin rD rB ∧ n = (readGpr s rB).extractLsb' 28 4)) :
    exec i s = .next (advance (writeGpr s rD (readSr s n))) := by
  rcases hi with rfl | ⟨rfl, rfl⟩
  · exact segmentMove_of_supervisor hw hu _
  · exact segmentMove_of_supervisor hw hu _

/-- Settles O36: one register of the sixteen is set, and its window opens with a new value. -/
theorem segmentRegisterWrites : Obligations.SegmentRegisterWrites := by
  unfold Obligations.SegmentRegisterWrites
  intro s rS rB n i hw hu hi
  refine ⟨_, exec_segmentWrite hw hu hi, rfl, ?_, fun q hq => ?_, fun q => ?_, fun _ => rfl, rfl⟩
  · exact Vector.getElem_set_self _
  · exact Vector.getElem_set_ne n.isLt q.isLt fun h => hq (BitVec.eq_of_toNat_eq h.symm)
  · show (openAt _ n.toNat _).getLsbD q.toNat = true ↔ _
    rw [getLsbD_openAt _ _ q.isLt, Bool.or_eq_true, Bool.and_eq_true, bne_iff_ne, decide_eq_true_eq,
      and_comm (a := _ ≠ _), ← BitVec.toNat_inj, eq_comm (a := n.toNat)]
    rfl

theorem getLsbD_readSr (s : State) (n : SrNum) (k : Nat) : (readSr s n).getLsbD k =
    ((s.sr[n.toNat]'n.isLt).getLsbD k &&
      (!(srReserved (s.sr[n.toNat]'n.isLt)).getLsbD k || (freeValue .reservedBits s).getLsbD k)) := by
  rw [readSr, getLsbD_readReserved, getLsbD_zextWord, getLsbD_zextWord]

theorem fitsWidth_readSr (s : State) (n : SrNum) : fitsWidth s.cfg (readSr s n) := by
  rw [fitsWidth_iff]
  intro _ k hk
  rw [getLsbD_readSr, BitVec.getLsbD_of_ge _ k hk, Bool.false_and]

/-- The defined bits of a segment register: with T = 1 all, with T = 0 all but bits 4 to 7 (R85, R86). -/
theorem srReserved_defined {v : Word32} {k : Nat} (h : k < 24 ∨ 28 ≤ k ∨ v.getLsbD 31 = true) :
    (srReserved v).getLsbD k = false := by
  have hbits : (0x0F000000 : Word32).getLsbD k = decide (k ∈ [24, 25, 26, 27]) :=
    getLsbD_of_bits (by decide) (by decide) k
  unfold srReserved
  split
  · exact BitVec.getLsbD_zero
  · next ht =>
    rw [hbits, decide_eq_false]
    simp only [List.mem_cons, List.not_mem_nil, or_false]
    have := (or_assoc.2 h).resolve_right ht
    omega

/-- Settles O37: the read of R20 with the reserved bits of the register's own format. -/
theorem segmentRegisterReads : Obligations.SegmentRegisterReads := by
  unfold Obligations.SegmentRegisterReads
  intro s rD rB n i hw hu hi
  refine ⟨_, exec_segmentRead hw hu hi, rfl, onlyGpr_advance_writeGpr s rD _, fun k hk => ?_⟩
  rw [readGpr_advance_writeGpr, show toWidth s.cfg (readSr s n) = readSr s n from fitsWidth_readSr s n, getLsbD_readSr]
  rcases or_assoc.2 (or_assoc.2 hk) with hd | hz
  · rw [srReserved_defined (or_assoc.1 hd), Bool.not_false, Bool.true_or, Bool.and_true]
  · rw [hz, Bool.false_and]

end Sys2Proof.Machine
end

section
/-! CR and XER (41_cr_xer_fpscr.md): moves into the CR, the flags that instructions record, and the integer compares. -/

namespace Sys2Proof.Machine

open Sys2Proof.Config

/-! ## CR fields (R26, R222, R224) -/

/-- An instruction that writes one CR field and goes on changes nothing else. -/
theorem onlyCrField_advance_writeCrField (s : State) (f : FieldNum) (v : BitVec 4) :
    OnlyCrField f s (advance (writeCrField s f v)) where
  fields _ hg := field4_setField4_other s.cr v hg
  memory _ := rfl
  rest := rfl

/-- Settles O38: a field as a whole, and a mask bit by bit. -/
theorem crMoveResult : Obligations.CrMoveResult := by
  unfold Obligations.CrMoveResult
  refine ⟨fun s crfD crfS => ⟨_, rfl, rfl, field4_setField4_same _ _ _, onlyCrField_advance_writeCrField s crfD _⟩,
    fun s crm rS => ⟨_, rfl, rfl, fun k hk => ?_, fun _ => rfl, rfl⟩⟩
  show (merge _ _ _).getLsbD k = _
  rw [getLsbD_merge, getLsbD_fieldsMask, getLsbD_lowWord]
  simp only [hk, decide_true, Bool.true_and]

/-! ## The flags by mode (R210 to R218) -/

theorem getLsbD_crBits (lt gt so : Bool) :
    (crBits lt gt so).getLsbD 3 = lt ∧ (crBits lt gt so).getLsbD 2 = gt ∧
      (crBits lt gt so).getLsbD 1 = (!lt && !gt) ∧ (crBits lt gt so).getLsbD 0 = so := by
  cases lt <;> cases gt <;> cases so <;> decide

/-- CR0 is the register's four high-order bits. -/
theorem getLsbD_writeCr0 (s : State) (x : BitVec 4) {j : Nat} (hj : j < 4) :
    (writeCrField s 0 x).cr.getLsbD (28 + j) = x.getLsbD j := by
  have h := congrArg (fun v : BitVec 4 => v.getLsbD j) (field4_setField4_same s.cr 0 x)
  rw [getLsbD_field4, decide_eq_true hj, Bool.true_and] at h
  exact h

/-- CR0 of a result of `n` bits: the signed comparison with zero (R210). -/
theorem getLsbD_cr0Record (n : Nat) (r : BitVec n) (so : Bool) :
    ((cr0Record n r so).getLsbD 3 = true ↔ r.toInt < 0) ∧ ((cr0Record n r so).getLsbD 2 = true ↔ 0 < r.toInt) ∧
      ((cr0Record n r so).getLsbD 1 = true ↔ r.toInt = 0) ∧ (cr0Record n r so).getLsbD 0 = so := by
  obtain ⟨h3, h2, h1, h0⟩ := getLsbD_crBits (r.slt 0) ((0 : BitVec n).slt r) so
  have hlt : r.slt 0 = true ↔ r.toInt < 0 := by simp [BitVec.slt]
  have hgt : (0 : BitVec n).slt r = true ↔ 0 < r.toInt := by simp [BitVec.slt]
  refine ⟨h3 ▸ hlt, h2 ▸ hgt, ?_, h0⟩
  rw [cr0Record, h1, Bool.and_eq_true, Bool.not_eq_true', Bool.not_eq_true', ← Bool.not_eq_true, ← Bool.not_eq_true,
    hlt, hgt]
  omega

theorem getLsbD_cr0Undefined (free : BitVec 3) (so : Bool) : (cr0Undefined free so).getLsbD 0 = so := by
  rw [cr0Undefined, BitVec.getLsbD_append]
  exact BitVec.getLsbD_ofBool so 0

/-- The signed value of an `n`-bit number by its most significant bit. -/
theorem toInt_cases {m : Nat} (a : BitVec (m + 1)) :
    (a.toNat < 2 ^ m ∧ a.toInt = a.toNat ∧ a.toNat % 2 ^ m = a.toNat) ∨
      (2 ^ m ≤ a.toNat ∧ a.toInt = a.toNat - 2 * 2 ^ m ∧ a.toNat % 2 ^ m = a.toNat - 2 ^ m) := by
  have hlt := a.isLt
  have hp : 2 ^ (m + 1) = 2 * 2 ^ m := by rw [Nat.pow_succ, Nat.mul_comm]
  rw [hp] at hlt
  rcases Nat.lt_or_ge a.toNat (2 ^ m) with h | h
  · refine .inl ⟨h, ?_, Nat.mod_eq_of_lt h⟩
    rw [BitVec.toInt_eq_toNat_cond, if_pos (by omega)]
  · refine .inr ⟨h, ?_, ?_⟩
    · rw [BitVec.toInt_eq_toNat_cond, if_neg (by omega), hp]
      push_cast
      rfl
    · rw [Nat.mod_eq_sub_mod h, Nat.mod_eq_of_lt (by omega)]

/-- The two carries differ exactly where the signed sum is not representable (R216). -/
theorem addOverflow_iff (m : Nat) (a b : BitVec (m + 1)) (c : Bool) : addOverflow (m + 1) a b c = true ↔
    a.toInt + b.toInt + c.toNat < -(2 ^ m : Int) ∨ (2 ^ m : Int) ≤ a.toInt + b.toInt + c.toNat := by
  have hp : 2 ^ (m + 1) = 2 * 2 ^ m := by rw [Nat.pow_succ, Nat.mul_comm]
  have hcast : (2 ^ m : Int) = ((2 ^ m : Nat) : Int) := by push_cast; rfl
  have ha := toInt_cases a
  have hb := toInt_cases b
  have hla := a.isLt
  have hlb := b.isLt
  have hc : c.toNat ≤ 1 := Bool.toNat_le c
  rw [addOverflow, bne_iff_ne, ne_eq, carryOut, carryIntoMsb, decide_eq_decide, Nat.add_sub_cancel, hcast]
  rw [hp] at *
  generalize 2 ^ m = p at *
  omega

theorem getLsbD_xer_masks (k : Nat) : (0x80000000 : Word32).getLsbD k = decide (k = 31) ∧
    (0x40000000 : Word32).getLsbD k = decide (k = 30) ∧ (0x20000000 : Word32).getLsbD k = decide (k = 29) :=
  ⟨(getLsbD_of_bits (ks := [31]) (by decide) (by decide) k).trans (by simp),
    (getLsbD_of_bits (ks := [30]) (by decide) (by decide) k).trans (by simp),
    (getLsbD_of_bits (ks := [29]) (by decide) (by decide) k).trans (by simp)⟩

theorem getLsbD_writeCA (x : Word32) (ca : Bool) (k : Nat) :
    (writeCA x ca).getLsbD k = if k = 29 then ca else x.getLsbD k := by
  simp only [writeCA, getLsbD_withBits, getLsbD_xer_masks, decide_eq_true_eq]

theorem getLsbD_writeOV (x : Word32) (ov : Bool) (k : Nat) : (writeOV x ov).getLsbD k =
    if k = 31 then x.getLsbD 31 || ov else if k = 30 then ov else x.getLsbD k := by
  simp only [writeOV, xerSO, getLsbD_withBits, getLsbD_xer_masks, decide_eq_true_eq]

/-- What every way to record CR0 keeps: SO, the other fields and the rest of the state. -/
theorem writeCr0_frame {s : State} {x : BitVec 4} (h : x.getLsbD 0 = s.xer.getLsbD 31) :
    (writeCrField s 0 x).cr.getLsbD 28 = s.xer.getLsbD 31 ∧
      (∀ g, g ≠ 0 → field4 (writeCrField s 0 x).cr g = field4 s.cr g) ∧
      writeCrField s 0 x = { s with cr := (writeCrField s 0 x).cr } :=
  ⟨(getLsbD_writeCr0 s x (j := 0) (by decide)).trans h, fun _ hg => field4_setField4_other s.cr x hg, rfl⟩

section
variable {s : State} {n : Nat} (hn : n = if mode64 s then 64 else 32) (a b : Word) (c : Bool)
include hn

theorem length_cases : (mode64 s = false ∧ n = 32) ∨ (mode64 s = true ∧ n = 64) := by
  cases h : mode64 s <;> simp [hn, h]

/-! The three rules, each over the mode's length. -/

theorem recordCr0_of_length : recordCr0 s a = writeCrField s 0 (cr0Record n (a.setWidth n) (xerSO s.xer)) := by
  rcases length_cases hn with ⟨hm, rfl⟩ | ⟨hm, rfl⟩
  · simp only [recordCr0, hm, Bool.false_eq_true, if_false]; rfl
  · simp only [recordCr0, hm, if_true, BitVec.setWidth_eq]

theorem carryOf_of_length : carryOf s a b c = carryOut n (a.setWidth n) (b.setWidth n) c := by
  rcases length_cases hn with ⟨hm, rfl⟩ | ⟨hm, rfl⟩
  · simp only [carryOf, hm, Bool.false_eq_true, if_false]; rfl
  · simp only [carryOf, hm, if_true, BitVec.setWidth_eq]

theorem overflowOf_of_length : overflowOf s a b c = addOverflow n (a.setWidth n) (b.setWidth n) c := by
  rcases length_cases hn with ⟨hm, rfl⟩ | ⟨hm, rfl⟩
  · simp only [overflowOf, hm, Bool.false_eq_true, if_false]; rfl
  · simp only [overflowOf, hm, if_true, BitVec.setWidth_eq]

theorem overflowOf_iff : overflowOf s a b c = true ↔
    (a.setWidth n).toInt + (b.setWidth n).toInt + c.toNat < -(2 ^ (n - 1) : Int) ∨
      (2 ^ (n - 1) : Int) ≤ (a.setWidth n).toInt + (b.setWidth n).toInt + c.toNat := by
  rw [overflowOf_of_length hn]
  obtain ⟨m, rfl⟩ : ∃ m, n = m + 1 := ⟨n - 1, by have := length_cases hn; omega⟩
  exact addOverflow_iff m _ _ c

end

theorem getLsbD_recordCa (s : State) (a b : Word) (c : Bool) (k : Nat) :
    (recordCa s a b c).xer.getLsbD k = if k = 29 then carryOf s a b c else s.xer.getLsbD k := getLsbD_writeCA _ _ _

theorem getLsbD_recordOv (s : State) (a b : Word) (c : Bool) (k : Nat) : (recordOv s a b c).xer.getLsbD k =
    if k = 31 then s.xer.getLsbD 31 || overflowOf s a b c
    else if k = 30 then overflowOf s a b c else s.xer.getLsbD k := getLsbD_writeOV _ _ _

theorem recordCr0_frame (s : State) (a : Word) : (recordCr0 s a).cr.getLsbD 28 = s.xer.getLsbD 31 ∧
    (∀ g, g ≠ 0 → field4 (recordCr0 s a).cr g = field4 s.cr g) ∧
    recordCr0 s a = { s with cr := (recordCr0 s a).cr } := by
  rw [recordCr0_of_length rfl]
  exact writeCr0_frame (getLsbD_cr0Record _ _ _).2.2.2

theorem recordCr0Undefined_frame (s : State) : (recordCr0Undefined s).cr.getLsbD 28 = s.xer.getLsbD 31 ∧
    (∀ g, g ≠ 0 → field4 (recordCr0Undefined s).cr g = field4 s.cr g) ∧
    recordCr0Undefined s = { s with cr := (recordCr0Undefined s).cr } := writeCr0_frame (getLsbD_cr0Undefined _ _)

/-- Settles O39: each rule is the one of the mode's length, and its bit of CR0 or the XER the only one it computes. -/
theorem recordedFlagsByMode : Obligations.RecordedFlagsByMode := by
  unfold Obligations.RecordedFlagsByMode
  intro s a b c n hn
  obtain ⟨lt, gt, eq, -⟩ := getLsbD_cr0Record n (a.setWidth n) (xerSO s.xer)
  have cr0 {j : Nat} (hj : j < 4) := getLsbD_writeCr0 s (cr0Record n (a.setWidth n) (xerSO s.xer)) hj
  rw [← recordCr0_of_length hn] at cr0
  refine ⟨?_, ?_, ?_, fun t ht => ?_, fun hm => ?_, fun hm => ?_, ?_, ?_, ?_, fun k hk => ?_, fun k h30 h31 => ?_,
    fun t ht => ?_⟩
  · rw [cr0 (j := 3) (by decide), lt]
  · rw [cr0 (j := 2) (by decide), gt]
  · rw [cr0 (j := 1) (by decide), eq]
  · simp only [List.mem_cons, List.not_mem_nil, or_false] at ht
    rcases ht with rfl | rfl | rfl
    · exact recordCr0_frame s a
    · rcases recordCr0Word_cases s a with ⟨-, h⟩ | ⟨-, h⟩ <;> rw [h]
      · exact recordCr0Undefined_frame s
      · exact recordCr0_frame s a
    · exact recordCr0Undefined_frame s
  · exact if_neg (by simp [hm])
  · exact if_pos hm
  · rw [getLsbD_recordCa, if_pos rfl, carryOf_of_length hn, carryOut, decide_eq_true_eq]
  · rw [getLsbD_recordOv, if_neg (by decide), if_pos rfl, overflowOf_iff hn]
  · rw [getLsbD_recordOv, getLsbD_recordOv, if_pos rfl, if_neg (by decide), if_pos rfl, Bool.or_eq_true]
  · rw [getLsbD_recordCa, if_neg hk]
  · rw [getLsbD_recordOv, if_neg h31, if_neg h30]
  · simp only [List.mem_cons, List.not_mem_nil, or_false] at ht
    rcases ht with rfl | rfl <;> rfl

/-! ## mcrxr (R230) -/

theorem getLsbD_visibleXer (s : State) (k : Nat) : (visibleXer s).getLsbD k =
    (s.xer.getLsbD k && (!xerReserved.getLsbD k || (freeValue .reservedBits s).getLsbD k)) := by
  rw [visibleXer, getLsbD_lowWord, getLsbD_readReserved, getLsbD_zextWord, getLsbD_zextWord]
  by_cases hk : k < 32
  · simp [hk]
  · simp [hk, BitVec.getLsbD_of_ge s.xer k (by omega)]

/-- Settles O40: the field copied is the XER's four high-order bits as they read. -/
theorem mcrxrResult : Obligations.McrxrResult := by
  unfold Obligations.McrxrResult
  intro s crfD
  have copied (j : Nat) (hj : j < 4) :
      (field4 (setField4 s.cr crfD (field4 (visibleXer s) 0)) crfD).getLsbD j = (visibleXer s).getLsbD (28 + j) := by
    rw [field4_setField4_same, getLsbD_field4, decide_eq_true hj, Bool.true_and]
    rfl
  have defined (k : Nat) (hk : 29 ≤ k) : (visibleXer s).getLsbD k = s.xer.getLsbD k := by
    rw [getLsbD_visibleXer, xerReserved_defined (.inr hk), Bool.not_false, Bool.true_or, Bool.and_true]
  refine ⟨_, rfl, rfl, ?_, ?_, ?_, fun hz => ?_, fun f hf => field4_setField4_other s.cr _ hf, rfl, fun _ => rfl, rfl⟩
  · exact (copied 3 (by decide)).trans (defined 31 (by decide))
  · exact (copied 2 (by decide)).trans (defined 30 (by decide))
  · exact (copied 1 (by decide)).trans (defined 29 (by decide))
  · refine (copied 0 (by decide)).trans ?_
    rw [getLsbD_visibleXer, hz, Bool.false_and]

/-! ## Integer compares (R240 to R243) -/

theorem compareInto_of_valid {s : State} {l : Bool} (h : l = true → is64 s.cfg = true) (f : FieldNum)
    (v : BitVec 4) : compareInto s f l v = .next (advance (writeCrField s f v)) := by
  refine if_pos ?_
  cases l
  · rfl
  · exact h rfl

/-- A compare whose two tests are those of `a` and `b`: the field, SO, and nothing else. -/
theorem compareInto_result {s : State} {l : Bool} (h : l = true → is64 s.cfg = true) (f : FieldNum) (lt gt eq : Bool)
    (heq : eq = (!lt && !gt)) :
    ∃ t, compareInto s f l (crBits lt gt (xerSO s.xer)) = .next t ∧ t.pc = nextPc s ∧ OnlyCrField f s t ∧
      (field4 t.cr f).getLsbD 3 = lt ∧ (field4 t.cr f).getLsbD 2 = gt ∧
      (field4 t.cr f).getLsbD 1 = eq ∧ (field4 t.cr f).getLsbD 0 = s.xer.getLsbD 31 := by
  obtain ⟨h3, h2, h1, h0⟩ := getLsbD_crBits lt gt (xerSO s.xer)
  have hf : field4 (advance (writeCrField s f (crBits lt gt (xerSO s.xer)))).cr f = crBits lt gt (xerSO s.xer) :=
    field4_setField4_same _ _ _
  refine ⟨_, compareInto_of_valid h f _, rfl, onlyCrField_advance_writeCrField s f _, ?_⟩
  rw [hf, heq]
  exact ⟨h3, h2, h1, h0⟩

theorem toInt_sextWord (v : Word32) : (sextWord v).toInt = v.toInt := BitVec.toInt_signExtend_of_le (by decide)

theorem toInt_sextImm (v : BitVec 16) : (sextImm v).toInt = v.toInt := BitVec.toInt_signExtend_of_le (by decide)

theorem toInt_signedOperand (s : State) (l : Bool) (r : GprNum) : (signedOperand s l r).toInt =
    if l then (readGpr s r).toInt else ((readGpr s r).setWidth 32).toInt := by
  cases l
  · exact toInt_sextWord _
  · rfl

theorem toNat_unsignedOperand (s : State) (l : Bool) (r : GprNum) : (unsignedOperand s l r).toNat =
    if l then (readGpr s r).toNat else (readGpr s r).toNat % 2 ^ 32 := by
  cases l
  · show (zextWord (lowWord _)).toNat = _
    rw [zextWord_lowWord]
    exact low32_toNat _
  · rfl

theorem compareSigned_eq (x y : Word) (so : Bool) :
    compareSigned x y so = crBits (decide (x.toInt < y.toInt)) (decide (y.toInt < x.toInt)) so := rfl

theorem compareUnsigned_eq (x y : Word) (so : Bool) :
    compareUnsigned x y so = crBits (decide (x.toNat < y.toNat)) (decide (y.toNat < x.toNat)) so := rfl

/-- Settles O45: the operands as integers, and the three tests of them. -/
theorem signedCompareResult : Obligations.SignedCompareResult := by
  unfold Obligations.SignedCompareResult
  intro s f l rA i a b hl ha hi
  have hexec : exec i s = compareInto s f l (crBits (decide (a < b)) (decide (b < a)) (xerSO s.xer)) := by
    rw [← toInt_signedOperand] at ha
    rcases hi with ⟨rB, rfl, hb⟩ | ⟨v, rfl, hb⟩
    · rw [exec, execCmp, compareSigned_eq, ha, hb, toInt_signedOperand s l rB]
    · rw [exec, execCmpi, compareSigned_eq, ha, hb, toInt_sextImm]
  rw [hexec]
  refine compareInto_result hl f _ _ _ ?_
  by_cases h1 : a < b <;> by_cases h2 : b < a <;> simp [h1, h2] <;> omega

/-- Settles O46: the operands as natural numbers, and the three tests of them. -/
theorem unsignedCompareResult : Obligations.UnsignedCompareResult := by
  unfold Obligations.UnsignedCompareResult
  intro s f l rA i a b hl ha hi
  have hexec : exec i s = compareInto s f l (crBits (decide (a < b)) (decide (b < a)) (xerSO s.xer)) := by
    rw [← toNat_unsignedOperand] at ha
    rcases hi with ⟨rB, rfl, hb⟩ | ⟨v, rfl, hb⟩
    · rw [exec, execCmpl, compareUnsigned_eq, ha, hb, toNat_unsignedOperand s l rB]
    · rw [exec, execCmpli, compareUnsigned_eq, ha, hb, BitVec.toNat_setWidth_of_le (by decide)]
  rw [hexec]
  refine compareInto_result hl f _ _ _ ?_
  by_cases h1 : a < b <;> by_cases h2 : b < a <;> simp [h1, h2] <;> omega

end Sys2Proof.Machine
end

section
/-! The FPSCR instructions (41_cr_xer_fpscr.md R231 to R238): the summary bits, the write of selected bits, and the stop
where a floating-point enabled exception is due. -/

namespace Sys2Proof.Machine

open Sys2Proof.Config

/-! ## The FPSCR as it reads (R33, R34) -/

theorem getLsbD_fpscr_masks (k : Nat) : (0x20000000 : Word32).getLsbD k = decide (k = 29) ∧
    (0x40000000 : Word32).getLsbD k = decide (k = 30) ∧ fpscrReserved.getLsbD k = decide (k = 11) :=
  ⟨(getLsbD_of_bits (ks := [29]) (by decide) (by decide) k).trans (by simp),
    (getLsbD_of_bits (ks := [30]) (by decide) (by decide) k).trans (by simp),
    (getLsbD_of_bits (ks := [11]) (by decide) (by decide) k).trans (by simp)⟩

theorem getLsbD_fpscrComputedBits (k : Nat) : fpscrComputedBits.getLsbD k = decide (k = 30 ∨ k = 29) :=
  (getLsbD_of_bits (ks := [30, 29]) (by decide) (by decide) k).trans (by simp)

theorem getLsbD_fpscrInvalidBits (k : Nat) :
    fpscrInvalidBits.getLsbD k = decide (k ∈ [24, 23, 22, 21, 20, 19, 10, 9, 8]) :=
  getLsbD_of_bits (by decide) (by decide) k

theorem getLsbD_fpscrComputed (f : Word32) (k : Nat) : (fpscrComputed f).getLsbD k =
    if k = 30 then fpscrFEX f else if k = 29 then fpscrVX f else f.getLsbD k := by
  simp only [fpscrComputed, getLsbD_withBits, getLsbD_fpscr_masks, decide_eq_true_eq]

theorem getLsbD_visibleFpscr (s : State) (k : Nat) : (visibleFpscr s).getLsbD k =
    ((fpscrComputed s.fpscr).getLsbD k && (!decide (k = 11) || (freeValue .reservedBits s).getLsbD k)) := by
  rw [visibleFpscr, getLsbD_lowWord, getLsbD_readReserved, getLsbD_zextWord, getLsbD_zextWord,
    (getLsbD_fpscr_masks k).2.2]
  by_cases hk : k < 32
  · simp [hk]
  · simp [hk, BitVec.getLsbD_of_ge _ k (Nat.le_of_not_lt hk)]

/-- Two numbers share a one bit where their conjunction is not zero. -/
theorem and_bne_zero_iff {n : Nat} (v m : BitVec n) :
    (v &&& m != 0) = true ↔ ∃ k, v.getLsbD k = true ∧ m.getLsbD k = true := by
  rw [bne_iff_ne, ne_eq, BitVec.eq_of_getLsbD_eq_iff, not_forall]
  constructor
  · rintro ⟨k, hk⟩
    simp only [BitVec.getLsbD_and, BitVec.ofNat_eq_ofNat, BitVec.getLsbD_zero, Classical.not_imp, Bool.not_eq_false,
      Bool.and_eq_true] at hk
    exact ⟨k, hk.2⟩
  · rintro ⟨k, hv, hm⟩
    refine ⟨k, fun h => ?_⟩
    have := h (BitVec.lt_of_getLsbD hv)
    simp [hv, hm] at this

/-- VX is the OR of the nine invalid operation exceptions (R34). -/
theorem fpscrVX_iff (f : Word32) :
    fpscrVX f = true ↔ ∃ k ∈ [24, 23, 22, 21, 20, 19, 10, 9, 8], f.getLsbD k = true := by
  rw [fpscrVX, and_bne_zero_iff]
  simp only [getLsbD_fpscrInvalidBits, decide_eq_true_eq]
  exact exists_congr fun k => and_comm

/-- FEX is the OR of the exceptions that are enabled (R33). -/
theorem fpscrFEX_iff (f : Word32) : fpscrFEX f = true ↔ (fpscrVX f = true ∧ f.getLsbD 7 = true) ∨
    (f.getLsbD 28 = true ∧ f.getLsbD 6 = true) ∨ (f.getLsbD 27 = true ∧ f.getLsbD 5 = true) ∨
    (f.getLsbD 26 = true ∧ f.getLsbD 4 = true) ∨ (f.getLsbD 25 = true ∧ f.getLsbD 3 = true) := by
  simp only [fpscrFEX, Bool.or_eq_true, Bool.and_eq_true, or_assoc]

/-- Settles O41: the reserved bit is neither summary bit, so R20 touches no other. -/
theorem fpscrSummaryBits : Obligations.FpscrSummaryBits := by
  unfold Obligations.FpscrSummaryBits
  intro s
  have summary {k : Nat} (hk : k ≠ 11) : (visibleFpscr s).getLsbD k = (fpscrComputed s.fpscr).getLsbD k := by
    rw [getLsbD_visibleFpscr, decide_eq_false hk, Bool.not_false, Bool.true_or, Bool.and_true]
  have vx : (visibleFpscr s).getLsbD 29 = fpscrVX s.fpscr := by
    rw [summary (by decide), getLsbD_fpscrComputed, if_neg (by decide), if_pos rfl]
  refine ⟨?_, ?_, fun k h30 h29 h11 => ?_, fun h => ?_⟩
  · rw [vx, fpscrVX_iff]
  · rw [vx, summary (by decide), getLsbD_fpscrComputed, if_pos rfl, fpscrFEX_iff]
  · rw [summary h11, getLsbD_fpscrComputed, if_neg h30, if_neg h29]
  · rw [getLsbD_visibleFpscr, getLsbD_fpscrComputed, if_neg (by decide), if_neg (by decide), h, Bool.false_and]

/-! ## The end of an FPSCR instruction (R212, R231) -/

/-- The trap is judged on the FPSCR `g` written, without its computed bits, and on the context that the instruction
sees: a write of the CR before it does not matter. -/
theorem fpTrapDue_write {s u : State} (hu : u = { s with cr := u.cr }) (g : Word32) :
    fpTrapDue (advance (setFpscr u g)) =
      (fpscrFEX (g &&& ~~~fpscrComputedBits) && (msrFpMode (contextMsr s) != .disabled)) := by rw [hu]; rfl

theorem fpComplete_of_due {s : State} (h : fpTrapDue s = true) (rc : Bool) :
    fpComplete rc s = .refused .fpEnabledException := if_pos h

theorem fpComplete_of_not_due {s : State} (h : fpTrapDue s = false) (rc : Bool) :
    fpComplete rc s = .next (if rc then writeCrField s 1 (field4 (visibleFpscr s) 0) else s) := if_neg (by simp [h])

section
variable {s u : State} {i : Instr} {rc : Bool} {f g : Word32} (hu : u = { s with cr := u.cr })
  (hfp : msrFP (contextMsr s) = true) (hg : g &&& ~~~fpscrComputedBits = f)
  (hexec : exec i s = fpAvailable s (fpComplete rc (advance (setFpscr u g))))
include hu hfp hg hexec

/-- With MSR[FP] = 1 it stops where an enabled exception is due (R231 (f)). -/
theorem exec_fpscr_of_due (hx : fpscrFEX f = true) (hm : msrFpMode (contextMsr s) ≠ .disabled) :
    exec i s = .refused .fpEnabledException := by
  rw [hexec, fpAvailable_of_available hfp, fpComplete_of_due]
  rw [fpTrapDue_write hu, hg, hx, Bool.true_and, bne_iff_ne]
  exact hm

theorem exec_fpscr_of_not_due (hx : fpscrFEX f = false ∨ msrFpMode (contextMsr s) = .disabled) :
    exec i s = .next (if rc
      then writeCrField (advance (setFpscr u g)) 1 (field4 (visibleFpscr (advance (setFpscr u g))) 0)
      else advance (setFpscr u g)) := by
  rw [hexec, fpAvailable_of_available hfp, fpComplete_of_not_due]
  rw [fpTrapDue_write hu, hg]
  rcases hx with hx | hx
  · rw [hx, Bool.false_and]
  · rw [hx]; exact Bool.and_false _

end

/-- The result of **mtfsfi**, **mtfsf**, **mtfsb0** and **mtfsb1**: the FPSCR is `f`, and with Rc = 1 CR1 its first
four bits as they read. -/
theorem fpscrWrite_result {s : State} {i : Instr} {rc : Bool} {f g : Word32} (hfp : msrFP (contextMsr s) = true)
    (hg : ∀ k, (g &&& ~~~fpscrComputedBits).getLsbD k = f.getLsbD k)
    (hexec : exec i s = fpAvailable s (fpComplete rc (advance (setFpscr s g)))) :
    (fpscrFEX f = true → msrFpMode (contextMsr s) ≠ .disabled → exec i s = .refused .fpEnabledException) ∧
    (fpscrFEX f = false ∨ msrFpMode (contextMsr s) = .disabled →
      ∃ t, exec i s = .next t ∧ t.pc = nextPc s ∧ t.fpscr = f ∧
        (rc = true → field4 t.cr 1 = field4 (visibleFpscr t) 0 ∧ ∀ h, h ≠ 1 → field4 t.cr h = field4 s.cr h) ∧
        (rc = false → t.cr = s.cr) ∧ sameMemory s t ∧
        t = { s with cr := t.cr, fpscr := t.fpscr, pc := t.pc }) := by
  have hgf : g &&& ~~~fpscrComputedBits = f := BitVec.eq_of_getLsbD_eq fun k _ => hg k
  refine ⟨exec_fpscr_of_due (u := s) rfl hfp hgf hexec,
    fun hx => ⟨_, exec_fpscr_of_not_due (u := s) rfl hfp hgf hexec hx, ?_⟩⟩
  cases rc with
  | false => exact ⟨rfl, hgf, nofun, fun _ => rfl, fun _ => rfl, rfl⟩
  | true =>
    exact ⟨rfl, hgf, fun _ => ⟨field4_setField4_same _ _ _, fun _ hne => field4_setField4_other _ _ hne⟩, nofun,
      fun _ => rfl, rfl⟩

/-! ## What each instruction writes, bit by bit -/

theorem getLsbD_and_not_computed (v : Word32) (k : Nat) :
    (v &&& ~~~fpscrComputedBits).getLsbD k = (decide (k ≠ 30 ∧ k ≠ 29) && v.getLsbD k) := by
  rw [BitVec.getLsbD_and, BitVec.getLsbD_not, getLsbD_fpscrComputedBits, Bool.and_comm]
  by_cases hk : k < 32
  · simp [hk]
  · simp [BitVec.getLsbD_of_ge v k (Nat.le_of_not_lt hk)]

/-- A write of the bits of `mask`, FEX and VX aside (R231 (b)). -/
theorem getLsbD_writeFpscr (old new mask : Word32) (k : Nat) : (writeFpscr old new mask).getLsbD k =
    if decide (k ≠ 30 ∧ k ≠ 29) && mask.getLsbD k then new.getLsbD k else old.getLsbD k := by
  rw [writeFpscr, getLsbD_merge, getLsbD_and_not_computed]

theorem getLsbD_writeFpscr_stored (old new mask : Word32) (k : Nat) :
    (writeFpscr old new mask &&& ~~~fpscrComputedBits).getLsbD k =
      (decide (k ≠ 30 ∧ k ≠ 29) && if mask.getLsbD k then new.getLsbD k else old.getLsbD k) := by
  rw [getLsbD_and_not_computed, getLsbD_writeFpscr]
  cases decide (k ≠ 30 ∧ k ≠ 29) <;> simp

/-- Settles O43: the fields that the mask selects, from the immediate or from the FPR. -/
theorem fpscrFieldWrites : Obligations.FpscrFieldWrites := by
  unfold Obligations.FpscrFieldWrites
  intro s i rc f hfp hi
  rcases hi with ⟨crfD, imm, rfl, hf⟩ | ⟨fm, frB, rfl, hf⟩
  · refine fpscrWrite_result hfp (g := writeFpscr s.fpscr (atField4 crfD imm) (field4Mask crfD)) (fun k => ?_) rfl
    rw [getLsbD_writeFpscr_stored, hf k, getLsbD_field4Mask]
    by_cases hk : k < 32 ∧ k / 4 = 7 - crfD.toNat
    · rw [if_pos (by simp [hk]), if_pos hk, getLsbD_atField4 _ _ _ hk.2 hk.1]
    · rw [if_neg (by simpa using hk), if_neg hk]
  · refine fpscrWrite_result hfp (g := writeFpscr s.fpscr (lowWord (readFpr s frB)) (fieldsMask fm)) (fun k => ?_) rfl
    rw [getLsbD_writeFpscr_stored, hf k, getLsbD_fieldsMask, getLsbD_lowWord]
    by_cases hk : k < 32 ∧ fm.getLsbD (k / 4) = true
    · rw [if_pos (by simp [hk]), if_pos hk, decide_eq_true hk.1, Bool.true_and]
    · rw [if_neg (by simpa using hk), if_neg hk]

/-- FX is set where a bit that is written is an exception bit that was zero (R231 (d)). -/
theorem getLsbD_implicitFX (old new : Word32) (k : Nat) : (implicitFX old new).getLsbD k =
    if k = 31 then new.getLsbD 31 || (new &&& ~~~old &&& fpscrExceptionBits != 0) else new.getLsbD k := by
  simp only [implicitFX, getLsbD_withBits, (getLsbD_xer_masks k).1, decide_eq_true_eq]

theorem getLsbD_fpscrExceptionBits_computed {k : Nat} (h : fpscrExceptionBits.getLsbD k = true) : k ≠ 30 ∧ k ≠ 29 := by
  constructor <;> rintro rfl <;> revert h <;> decide

/-- The bit that **mtfsb1** sets, with FX where it is a new exception. -/
theorem getLsbD_mtfsb1 (old : Word32) (crbD : BitVec 5) (k : Nat) :
    (implicitFX old (writeFpscr old (srcBit crbD) (srcBit crbD)) &&& ~~~fpscrComputedBits).getLsbD k =
      (decide (k ≠ 30 ∧ k ≠ 29) && (old.getLsbD k || decide (k = 31 - crbD.toNat) ||
        (decide (k = 31) && fpscrExceptionBits.getLsbD (31 - crbD.toNat) && !old.getLsbD (31 - crbD.toNat)))) := by
  have written (k : Nat) : (writeFpscr old (srcBit crbD) (srcBit crbD)).getLsbD k =
      (old.getLsbD k || (decide (k = 31 - crbD.toNat) && decide (k ≠ 30 ∧ k ≠ 29))) := by
    rw [getLsbD_writeFpscr, getLsbD_srcBit]
    cases decide (k ≠ 30 ∧ k ≠ 29) <;> cases decide (k = 31 - crbD.toNat) <;> simp
  have newException : (writeFpscr old (srcBit crbD) (srcBit crbD) &&& ~~~old &&& fpscrExceptionBits != 0) =
      (fpscrExceptionBits.getLsbD (31 - crbD.toNat) && !old.getLsbD (31 - crbD.toNat)) := by
    rw [Bool.eq_iff_iff, and_bne_zero_iff]
    simp only [BitVec.getLsbD_and, BitVec.getLsbD_not, written, Bool.and_eq_true, Bool.or_eq_true, decide_eq_true_eq,
      Bool.not_eq_true']
    constructor
    · rintro ⟨k, ⟨hw, -, hold⟩, hx⟩
      rcases hw with hw | ⟨rfl, -⟩
      · rw [hold] at hw; cases hw
      · exact ⟨hx, hold⟩
    · rintro ⟨hx, hold⟩
      exact ⟨31 - crbD.toNat, ⟨.inr ⟨rfl, getLsbD_fpscrExceptionBits_computed hx⟩, by omega, hold⟩, hx⟩
  rw [getLsbD_and_not_computed, getLsbD_implicitFX, newException, written, written]
  by_cases hc : k ≠ 30 ∧ k ≠ 29
  · by_cases h31 : k = 31
    · subst h31
      simp
    · simp [h31, hc]
  · simp only [hc, decide_false, Bool.false_and]

/-- Settles O44: one bit, cleared or set. -/
theorem fpscrBitWrites : Obligations.FpscrBitWrites := by
  unfold Obligations.FpscrBitWrites
  intro s i crbD rc f hfp hi
  rcases hi with ⟨rfl, hf⟩ | ⟨rfl, hf⟩
  · refine fpscrWrite_result hfp (g := writeFpscr s.fpscr 0 (srcBit crbD)) (fun k => ?_) rfl
    rw [getLsbD_writeFpscr_stored, hf k, getLsbD_srcBit]
    by_cases hk : k = 31 - crbD.toNat
    · simp [hk]
    · simp [hk, Bool.and_comm]
  · exact fpscrWrite_result hfp (fun k => (getLsbD_mtfsb1 s.fpscr crbD k).trans (hf k).symm) rfl

/-- Settles O42: the field is copied before its exception bits are cleared. -/
theorem mcrfsResult : Obligations.McrfsResult := by
  unfold Obligations.McrfsResult
  intro s crfD crfS f hfp hf
  have hg : clearCopied s.fpscr crfS &&& ~~~fpscrComputedBits = f := by
    refine BitVec.eq_of_getLsbD_eq fun k hk => ?_
    rw [getLsbD_and_not_computed, clearCopied, BitVec.getLsbD_and, BitVec.getLsbD_not, BitVec.getLsbD_and,
      getLsbD_field4Mask, hf k, decide_eq_true hk, Bool.true_and, Bool.true_and]
    rw [fpscrStickyBits]
    ac_rfl
  have hexec : exec (.mcrfs crfD crfS) s = fpAvailable s (fpComplete false
      (advance (setFpscr (writeCrField s crfD (field4 (visibleFpscr s) crfS)) (clearCopied s.fpscr crfS)))) := rfl
  exact ⟨exec_fpscr_of_due rfl hfp hg hexec, fun hx => ⟨_, exec_fpscr_of_not_due rfl hfp hg hexec hx, rfl, hg,
    field4_setField4_same _ _ _, fun _ hne => field4_setField4_other _ _ hne, fun _ => rfl, rfl⟩⟩

end Sys2Proof.Machine
end

section
/-! Branches, returns, synchronization and external control (42_branch.md, 43_system_sync.md). -/

namespace Sys2Proof.Machine

open Sys2Proof.Config

/-! ## Branches (R252 to R260) -/

/-- A displacement is a field with two zero bits behind it, sign-extended (R255). -/
theorem signExtend_append_two {n : Nat} (v : BitVec n) (hn : n + 2 ≤ 64) :
    (v ++ (0 : BitVec 2)).signExtend 64 = v.signExtend 64 <<< 2 := by
  have low (k : Nat) : (0 : BitVec 2).getLsbD k = false := by simp
  have sign : (v ++ (0 : BitVec 2)).msb = v.msb := by
    rcases Nat.eq_zero_or_pos n with rfl | h
    · simp [BitVec.of_length_zero]
    · simp [BitVec.msb_append, h.ne']
  apply BitVec.eq_of_getLsbD_eq
  intro i hi
  rw [BitVec.getLsbD_shiftLeft, BitVec.getLsbD_signExtend, BitVec.getLsbD_signExtend, BitVec.getLsbD_append, sign, low]
  by_cases h2 : i < 2
  · simp [h2, show i < n + 2 by omega]
  · simp [h2, hi, show i - 2 < 64 by omega, show i < n + 2 ↔ i - 2 < n by omega]

/-- Settles O47: the target is formed from the sign-extended field, with or without the pc. -/
theorem relativeBranchResult : Obligations.RelativeBranchResult := by
  unfold Obligations.RelativeBranchResult
  refine ⟨fun s li aa lk => ⟨_, rfl, ?_, rfl, fun _ => rfl, rfl⟩,
    fun s bo bi bd aa lk => ⟨_, rfl, rfl, rfl, ?_, fun _ => rfl, rfl⟩⟩
  · rw [signExtend_append_two li (by decide)]; rfl
  · rw [signExtend_append_two bd (by decide)]; rfl

/-- BO{0} to BO{3} are the bits of the field that names a row of the table. -/
theorem bo_bits (bo : BitVec 5) : bo0 bo = (bo.extractLsb' 1 4).getLsbD 3 ∧ bo1 bo = (bo.extractLsb' 1 4).getLsbD 2 ∧
    bo2 bo = (bo.extractLsb' 1 4).getLsbD 1 ∧ bo3 bo = (bo.extractLsb' 1 4).getLsbD 0 := by
  simp only [BitVec.getLsbD_extractLsb']
  exact ⟨rfl, rfl, rfl, rfl⟩

theorem branchCtr_of_decrement {s : State} {bo : BitVec 5} (h : bo2 bo = false) :
    branchCtr s bo = toWidth s.cfg (s.ctr - 1) := if_neg (by simp [h])

theorem branchCtr_of_keep {s : State} {bo : BitVec 5} (h : bo2 bo = true) : branchCtr s bo = s.ctr := if_pos h

/-- The test by BO's bits: of the decremented CTR unless BO{2} is one, of the CR bit unless BO{0} is one. -/
theorem branchTaken_eq (s : State) (bo bi : BitVec 5) : branchTaken s bo bi =
    ((bo2 bo || (effective s (branchCtr s bo) != 0) != bo3 bo) &&
      (bo0 bo || s.cr.getLsbD (31 - bi.toNat) == bo1 bo)) := rfl

/-- Settles O48: each row fixes the four bits that `branchCtr` and `branchTaken` read. -/
theorem branchOptionTable : Obligations.BranchOptionTable := by
  unfold Obligations.BranchOptionTable
  rintro s bo bi n c rfl rfl
  obtain ⟨h0, h1, h2, h3⟩ := bo_bits bo
  generalize bo.extractLsb' 1 4 = row at h0 h1 h2 h3
  have decrement (hd : bo2 bo = false) : branchCtr s bo = toWidth s.cfg (s.ctr - 1) ∧ branchTaken s bo bi =
      (((effective s (toWidth s.cfg (s.ctr - 1)) != 0) != bo3 bo) &&
        (bo0 bo || s.cr.getLsbD (31 - bi.toNat) == bo1 bo)) := by
    rw [branchTaken_eq, branchCtr_of_decrement hd, hd, Bool.false_or]
    exact ⟨rfl, rfl⟩
  have keep (hd : bo2 bo = true) : branchCtr s bo = s.ctr ∧ branchTaken s bo bi =
      (bo0 bo || s.cr.getLsbD (31 - bi.toNat) == bo1 bo) := by
    rw [branchTaken_eq, branchCtr_of_keep hd, hd, Bool.true_or, Bool.true_and]
    exact ⟨rfl, rfl⟩
  generalize (effective s (toWidth s.cfg (s.ctr - 1)) != 0) = n at decrement ⊢
  generalize s.cr.getLsbD (31 - bi.toNat) = c at decrement keep ⊢
  rw [h0, h1, h3] at decrement
  rw [h0, h1] at keep
  rw [h2] at decrement keep
  refine ⟨?_, ?_, ?_, ?_, ?_, ?_, ?_, ?_, ?_⟩
  · rintro rfl; simpa using decrement rfl
  · rintro rfl; simpa using decrement rfl
  · rintro (rfl | rfl) <;> simpa using keep rfl
  · rintro rfl; simpa using decrement rfl
  · rintro rfl; simpa using decrement rfl
  · rintro (rfl | rfl) <;> simpa using keep rfl
  · rintro (rfl | rfl) <;> simpa using decrement rfl
  · rintro (rfl | rfl) <;> simpa using decrement rfl
  · rintro (rfl | rfl | rfl | rfl) <;> simpa using keep rfl

/-- Settles O49: the target is taken before the LR is written. -/
theorem branchToRegisterResult : Obligations.BranchToRegisterResult := by
  unfold Obligations.BranchToRegisterResult
  intro s bo bi lk
  refine ⟨⟨_, rfl, rfl, rfl, rfl, fun _ => rfl, rfl⟩, fun h => ⟨_, if_pos h, rfl, rfl, fun _ => rfl, rfl⟩⟩

/-! ## Returns (R272 to R276) -/

theorem exec_returnFromException {s : State} (hu : userMode s = false) {i : Instr} {m : Word}
    (h : (i = .rfi ∧ (is64 s.cfg = false ∨ hasBridge s.cfg = true) ∧
        m = (s.msr &&& 0xFFFFFFFF783F0000) ||| (s.srr1 &&& 0x0000000087C0FFFF)) ∨
      (i = .rfid ∧ is64 s.cfg = true ∧ m = (s.msr &&& 0x00000000783F0000) ||| (s.srr1 &&& 0xFFFFFFFF87C0FFFF))) :
    ∃ mask, exec i s = returnFromException mask s ∧ m = merge s.msr s.srr1 mask := by
  rcases h with ⟨rfl, hw, rfl⟩ | ⟨rfl, hw, rfl⟩
  · exact ⟨_, exec_rfi hu hw, (merge_rfi _ _).symm⟩
  · exact ⟨_, exec_rfid hu hw, (merge_rfid _ _).symm⟩

theorem low32_clearLow2 (a : Word) : low32 (clearLow2 a) = a &&& 0x00000000FFFFFFFC := by
  rw [low32, clearLow2, BitVec.and_assoc]
  rfl

/-- Settles O51: the merge of SRR1 into the MSR by the mask of each instruction. -/
theorem returnFromExceptionResult : Obligations.ReturnFromExceptionResult := by
  unfold Obligations.ReturnFromExceptionResult
  intro s i m hu hm hi
  obtain ⟨mask, hexec, rfl⟩ := exec_returnFromException hu hi
  refine ⟨_, hexec.trans (returnFromException_of_supported hm), rfl, ?_, rfl, rfl, fun _ => rfl, rfl⟩
  rw [← low32_clearLow2]
  rfl

/-! ## Synchronization (R278 to R291) -/

/-- Settles O52: each closes or opens its windows, and goes on. -/
theorem synchronizationResult : Obligations.SynchronizationResult := by
  unfold Obligations.SynchronizationResult
  refine ⟨fun s => ⟨⟨_, rfl, rfl, fun _ => rfl, rfl⟩, ⟨_, rfl, rfl, fun _ => rfl, rfl⟩⟩,
    fun s rB hu => ⟨fun i hi hw => ?_, fun i hi => ?_⟩⟩
  · have hexec : exec i s = .next (advance (openSlb s)) := by
      simp only [List.mem_cons, List.not_mem_nil, or_false] at hi
      rcases hi with rfl | rfl <;> exact (presentIf_of_true hw _).trans (supervisorOnly_of_supervisor hu _)
    exact ⟨_, hexec, rfl, fun _ => rfl, rfl⟩
  · have hexec : exec i s = .next (advance (openTlb s)) := by
      simp only [List.mem_cons, List.not_mem_nil, or_false] at hi
      rcases hi with rfl | rfl <;> exact supervisorOnly_of_supervisor hu _
    exact ⟨_, hexec, rfl, fun _ => rfl, rfl⟩

/-! ## External control (R105, R284, R286) -/

/-- The RID bits that the implementation supports (R105). -/
theorem getLsbD_earRid (p : Params) (e : Word32) (k : Nat) :
    (earRid p e).getLsbD k = (e.getLsbD k && decide (k < p.ridBits.val)) := by
  have mask : ∀ (b : Fin 7) (k : Fin 6), ((1#6 <<< b.val) - 1).getLsbD k.val = decide (k.val < b.val) := by decide
  by_cases hk : k < 6
  · have hm := mask p.ridBits ⟨k, hk⟩
    rw [earRid, BitVec.getLsbD_and, BitVec.getLsbD_setWidth, decide_eq_true hk, Bool.true_and]
    exact congrArg (e.getLsbD k && ·) hm
  · have hr : ¬k < p.ridBits.val := by have := p.ridBits.isLt; omega
    rw [BitVec.getLsbD_of_ge _ k (Nat.le_of_not_lt hk), decide_eq_false hr, Bool.and_false]

/-- Settles O53: past the four checks the device is read or sent a word. -/
theorem externalControlResult : Obligations.ExternalControlResult := by
  unfold Obligations.ExternalControlResult
  rintro s r rA rB rid e hx rfl he ha hd hrid
  have hr : rid = earRid s.cfg (contextEar s) :=
    BitVec.eq_of_getLsbD_eq fun k _ => (hrid k).trans (getLsbD_earRid _ _ k).symm
  refine ⟨fun hm => ⟨_, (exec_eciwx hx r rA rB).trans (externalControl_of_transfer ha he hm hd), ?_, rfl,
    onlyGpr_advance_writeGpr s r _⟩, fun hm => ⟨_, (exec_ecowx hx r rA rB).trans
    (externalControl_of_transfer ha he hm hd), ?_, rfl, fun _ => rfl, rfl⟩⟩
  · rw [readGpr_advance_writeGpr, toWidth_zextWord, hr]
  · rw [hr]; rfl

end Sys2Proof.Machine
end

section
/-! Immediate, load and store instructions (44_loads_stores_examples.md): **addi**, **lwz** and the strings. -/

namespace Sys2Proof.Machine

open Sys2Proof.Config

/-- Settles O54: the sum reaches the register cut to the implementation's width. -/
theorem addiResult : Obligations.AddiResult := by
  unfold Obligations.AddiResult
  exact fun s rD rA simm => ⟨_, rfl, readGpr_advance_writeGpr s rD _, rfl, onlyGpr_advance_writeGpr s rD _⟩

/-- A data access that neither the breakpoint, nor translation, the byte order or the memory map stands against. -/
theorem dataAccess_of_reachable {kind : Access} {ea : Word} {n : Nat} {s : State} (hm : dabrMatch s kind ea n = false)
    (hd : msrDR (contextMsr s) = false) (hl : msrLE (contextMsr s) = false)
    (hmap : ∀ k < n, mapped s.cfg (byteAddr s ea k) = true) (k : Out) : dataAccess kind ea n s k = k :=
  dataAccess_of_transfer hm (accessRefusal_none hd hl hmap)

/-- Settles O55: past the checks, the word loaded holds the byte at EA + `k` as its byte `k`. -/
theorem lwzResult : Obligations.LwzResult := by
  unfold Obligations.LwzResult
  intro s rD rA d ea hea ha hm hd hl hmap
  have hexec : exec (.lwz rD rA d) s = .next (advance (writeGpr s rD (zextWord (loadWord s ea)))) := by
    subst hea
    exact (checkAlignment_of_allowed ha _).trans (dataAccess_of_reachable hm hd hl hmap _)
  have hread : readGpr (advance (writeGpr s rD (zextWord (loadWord s ea)))) rD = zextWord (loadWord s ea) := by
    rw [readGpr_advance_writeGpr, toWidth_zextWord]
  refine ⟨_, hexec, fun k hk => ?_, ?_, rfl, onlyGpr_advance_writeGpr s rD _⟩
  · rw [hread]
    exact wordOfBytes_byte (fun b : Fin 4 => loadByte s ea b) ⟨k, hk⟩
  · rw [hread]
    exact zextWord_lt _

/-! ## Strings (R308, R310) -/

/-- Byte `b` of the `j`-th register of a string loaded: byte `4 * j + b` of the string, and zero past its end. -/
theorem stringWord_byte (s : State) (ea : Word) (n j : Nat) {b : Nat} (hb : b < 4) :
    (zextWord (stringWord s ea n j)).extractLsb' (24 - 8 * b) 8 = stringByte s ea n (4 * j + b) :=
  wordOfBytes_byte (fun b : Fin 4 => stringByte s ea n (4 * j + b)) ⟨b, hb⟩

/-- Past a string the pc advances as from the state before it. -/
theorem advance_loadString_pc (s : State) (rD : GprNum) (ea : Word) (n : Nat) :
    (advance (loadString s rD ea n)).pc = nextPc s := by
  rw [loadString_eq]
  rfl

theorem advance_loadString_frame (s : State) (rD : GprNum) (ea : Word) (n : Nat) :
    advance (loadString s rD ea n) =
      { s with gpr := (advance (loadString s rD ea n)).gpr, pc := (advance (loadString s rD ea n)).pc } := by
  rw [loadString_eq]
  rfl

/-- Settles O56: with a count of zero rD alone is written; else the registers of the string are. -/
theorem lswxResult : Obligations.LswxResult := by
  unfold Obligations.LswxResult
  intro s rD rA rB ea n hn hea hA hB hregs hm hd hl hmap
  obtain rfl : n = xerByteCount s.xer := hn
  obtain rfl : ea = eaIndexed s rA rB := hea
  have hvalid : lswxInvalid rD rA rB (xerByteCount s.xer) = false := by
    rw [Bool.eq_false_iff, ne_eq, lswxInvalid_iff]
    rintro (h | h | ⟨j, hj, h | h⟩)
    · exact hA h
    · exact hB h
    · exact (hregs j hj).1 h
    · exact (hregs j hj).2 h
  by_cases h0 : xerByteCount s.xer = 0
  · refine ⟨_, exec_lswx_of_empty hvalid h0, rfl, fun _ => rfl, fun j hj => absurd hj (by omega), fun q _ hq => ?_, rfl⟩
    exact readGpr_writeGpr_other s _ (hq h0)
  · refine ⟨_, (exec_lswx_of_valid hvalid h0).trans (dataAccess_of_reachable hm hd hl hmap _),
      advance_loadString_pc _ _ _ _, fun a => congrArg (memRead · a) (loadString_mem _ _ _ _), fun j hj => ?_,
      fun q hq _ => readGpr_loadString_other s rD _ hq, advance_loadString_frame _ _ _ _⟩
    have hread := readGpr_loadString_same s rD (eaIndexed s rA rB) (xerByteCount_lt s.xer) hj
    refine ⟨(congrArg BitVec.toNat hread).trans_lt (zextWord_lt _), fun b hb => ?_⟩
    exact (congrArg (BitVec.extractLsb' (24 - 8 * b) 8) hread).trans (stringWord_byte _ _ _ _ hb)

/-- Byte `k` that a string store sends: byte `k % 4` of its register's low-order word. -/
theorem storedByte_eq (s : State) (rS : GprNum) (k : Nat) :
    storedByte s rS k = (readGpr s (rS + BitVec.ofNat 5 (k / 4))).extractLsb' (24 - 8 * (k % 4)) 8 := by
  apply BitVec.eq_of_getLsbD_eq
  intro i hi
  simp only [storedByte, Decode.byteOfWord, BitVec.getLsbD_extractLsb', getLsbD_lowWord, stringReg]
  simp [show 24 - 8 * (k % 4) + i < 32 by omega]

/-- Settles O57: the bytes stored lie at different addresses, so each stays as it was stored. -/
theorem stswxResult : Obligations.StswxResult := by
  unfold Obligations.StswxResult
  intro s rS rA rB ea n hn hea hw hm hd hl hmap
  obtain rfl : n = xerByteCount s.xer := hn
  obtain rfl : ea = eaIndexed s rA rB := hea
  refine ⟨_, (exec_stswx s rS rA rB).trans (dataAccess_of_reachable hm hd hl hmap _), rfl, fun k hk => ?_,
    fun a ha => memRead_storeBytes_other _ ha, rfl, rfl⟩
  exact (memRead_storeBytes_same _ (xerByteCount_lt s.xer).le hk hw).trans (storedByte_eq s rS k)

end Sys2Proof.Machine
end

section
/-! Floating-point transfers as a class (R306): the fields of the two formats, the conversion between them, and the four
loads and stores. -/

namespace Sys2Proof.Machine

open Sys2Proof.Config

/-! ## A value as its sign, exponent and fraction -/

section
variable {m n : Nat} (sign : Bool) (e : BitVec m) (f : BitVec n)

theorem msb_signed_fields : (BitVec.ofBool sign ++ (e ++ f : BitVec (m + n))).msb = sign := by
  simp [BitVec.msb_append]

theorem exponent_signed_fields : (BitVec.ofBool sign ++ (e ++ f : BitVec (m + n))).extractLsb' n m = e := by
  rw [BitVec.extractLsb'_append_eq_of_add_le (by omega), BitVec.extractLsb'_append_eq_left]

theorem fraction_signed_fields : (BitVec.ofBool sign ++ (e ++ f : BitVec (m + n))).extractLsb' 0 n = f := by
  rw [BitVec.extractLsb'_append_eq_of_add_le (by omega), BitVec.extractLsb'_append_eq_right]

end

section
variable (sign : Bool) (e f : Nat)

theorem msb_doubleOf : (doubleOf sign e f).msb = sign := msb_signed_fields sign _ _

theorem doubleExponent_doubleOf : doubleExponent (doubleOf sign e f) = e % 2 ^ 11 :=
  (congrArg BitVec.toNat (exponent_signed_fields sign _ _)).trans (BitVec.toNat_ofNat _ _)

theorem doubleFraction_doubleOf : doubleFraction (doubleOf sign e f) = f % 2 ^ 52 :=
  (congrArg BitVec.toNat (fraction_signed_fields sign _ _)).trans (BitVec.toNat_ofNat _ _)

end

theorem singleExponent_lt (v : Word32) : singleExponent v < 256 := BitVec.isLt _

theorem singleFraction_lt (v : Word32) : singleFraction v < 2 ^ 23 := BitVec.isLt _

/-- A single-precision value is made up of its three fields. -/
theorem singleOf_fields (v : Word32) : singleOf v.msb (singleExponent v) (singleFraction v) = v := by
  have sign : BitVec.ofBool v.msb = v.extractLsb' 31 1 := by
    apply BitVec.eq_of_getLsbD_eq
    intro i hi
    obtain rfl : i = 0 := by omega
    simp [BitVec.msb_eq_getLsbD_last]
  have low : v.extractLsb' 23 8 ++ v.extractLsb' 0 23 = v.extractLsb' 0 31 :=
    BitVec.extractLsb'_append_extractLsb'_eq_extractLsb' rfl
  have whole : v.extractLsb' 31 1 ++ v.extractLsb' 0 31 = v.extractLsb' 0 32 :=
    BitVec.extractLsb'_append_extractLsb'_eq_extractLsb' rfl
  rw [singleOf, singleExponent, singleFraction, BitVec.ofNat_toNat, BitVec.ofNat_toNat, BitVec.setWidth_eq,
    BitVec.setWidth_eq, sign, low, whole, BitVec.extractLsb'_eq_self]

/-! ## The double-precision form of a single-precision value -/

section
variable {v : Word32}

theorem singleToDouble_special (h : singleExponent v = 255) :
    singleToDouble v = doubleOf v.msb 2047 (singleFraction v <<< 29) := if_pos h

theorem singleToDouble_normal (h0 : singleExponent v ≠ 0) (h : singleExponent v ≠ 255) :
    singleToDouble v = doubleOf v.msb (singleExponent v + 896) (singleFraction v <<< 29) :=
  (if_neg h).trans (if_pos h0)

theorem singleToDouble_zero (h0 : singleExponent v = 0) (hf : singleFraction v = 0) :
    singleToDouble v = doubleOf v.msb 0 0 := by simp [singleToDouble, h0, hf]

theorem singleToDouble_denormal (h0 : singleExponent v = 0) (hf : singleFraction v ≠ 0) :
    singleToDouble v = doubleOf v.msb (874 + Nat.log2 (singleFraction v))
      (singleFraction v <<< (52 - Nat.log2 (singleFraction v))) := by simp [singleToDouble, h0, hf]

end

theorem msb_singleToDouble (v : Word32) : (singleToDouble v).msb = v.msb := by
  by_cases h0 : singleExponent v = 0
  · by_cases hf : singleFraction v = 0
    · rw [singleToDouble_zero h0 hf, msb_doubleOf]
    · rw [singleToDouble_denormal h0 hf, msb_doubleOf]
  · by_cases h : singleExponent v = 255
    · rw [singleToDouble_special h, msb_doubleOf]
    · rw [singleToDouble_normal h0 h, msb_doubleOf]

/-- A fraction of 23 bits shifted into the high-order bits of one of 52. -/
theorem shifted_fraction (v : Word32) : (singleFraction v <<< 29) % 2 ^ 52 = singleFraction v * 2 ^ 29 := by
  have := singleFraction_lt v
  rw [Nat.shiftLeft_eq]
  omega

/-- The leading one of a denormalized value's fraction is bit `log2 f`. -/
theorem log2_singleFraction_le (v : Word32) : Nat.log2 (singleFraction v) ≤ 22 := by
  by_cases hf : singleFraction v = 0
  · rw [hf]; decide
  · exact Nat.le_of_lt_succ ((Nat.log2_lt hf).2 (singleFraction_lt v))

/-- A denormalized fraction shifted until its leading one is the hidden bit 2^52. -/
theorem normalized_fraction {v : Word32} (hf : singleFraction v ≠ 0) :
    2 ^ 52 + (singleFraction v <<< (52 - Nat.log2 (singleFraction v))) % 2 ^ 52 =
      singleFraction v * 2 ^ (52 - Nat.log2 (singleFraction v)) := by
  have hL := log2_singleFraction_le v
  have hlow := Nat.log2_self_le hf
  have hhigh := Nat.lt_log2_self (n := singleFraction v)
  generalize singleFraction v = f at *
  generalize Nat.log2 f = l at *
  have lower : 2 ^ 52 ≤ f * 2 ^ (52 - l) := calc
    2 ^ 52 = 2 ^ l * 2 ^ (52 - l) := by rw [← Nat.pow_add]; congr 1; omega
    _ ≤ f * 2 ^ (52 - l) := Nat.mul_le_mul_right _ hlow
  have upper : f * 2 ^ (52 - l) < 2 ^ 53 := calc
    f * 2 ^ (52 - l) < 2 ^ (l + 1) * 2 ^ (52 - l) := Nat.mul_lt_mul_of_pos_right hhigh (Nat.two_pow_pos _)
    _ = 2 ^ 53 := by rw [← Nat.pow_add]; congr 1; omega
  rw [Nat.shiftLeft_eq]
  omega

/-! ## The two conversions -/

/-- Every single-precision value comes back from its double-precision form. -/
theorem doubleToSingle_singleToDouble (v : Word32) : doubleToSingle (singleToDouble v) = v := by
  have hlt := singleExponent_lt v
  by_cases h0 : singleExponent v = 0
  · by_cases hf : singleFraction v = 0
    · rw [singleToDouble_zero h0 hf, doubleToSingle, doubleExponent_doubleOf, msb_doubleOf]
      simpa [h0, hf] using singleOf_fields v
    · have hL := log2_singleFraction_le v
      have he : (874 + Nat.log2 (singleFraction v)) % 2 ^ 11 = 874 + Nat.log2 (singleFraction v) := by omega
      have hback : (singleFraction v * 2 ^ (52 - Nat.log2 (singleFraction v))) >>>
          (926 - (874 + Nat.log2 (singleFraction v))) = singleFraction v := by
        rw [show 926 - (874 + Nat.log2 (singleFraction v)) = 52 - Nat.log2 (singleFraction v) by omega,
          Nat.shiftRight_eq_div_pow, Nat.mul_div_cancel _ (Nat.two_pow_pos _)]
      rw [singleToDouble_denormal h0 hf]
      simp only [doubleToSingle, doubleExponent_doubleOf, doubleFraction_doubleOf, msb_doubleOf, he]
      rw [if_neg (by omega), if_neg (by omega), if_pos (by omega), normalized_fraction hf, hback, ← h0, singleOf_fields]
  · have hback : (singleFraction v * 2 ^ 29) >>> 29 = singleFraction v := by
      rw [Nat.shiftRight_eq_div_pow, Nat.mul_div_cancel _ (Nat.two_pow_pos _)]
    by_cases h : singleExponent v = 255
    · rw [singleToDouble_special h]
      simp only [doubleToSingle, doubleExponent_doubleOf, doubleFraction_doubleOf, msb_doubleOf, shifted_fraction,
        hback]
      rw [if_pos (by decide), ← h, singleOf_fields]
    · have he : (singleExponent v + 896) % 2 ^ 11 = singleExponent v + 896 := by omega
      rw [singleToDouble_normal h0 h]
      simp only [doubleToSingle, doubleExponent_doubleOf, doubleFraction_doubleOf, msb_doubleOf, shifted_fraction,
        hback, he]
      rw [if_neg (by omega), if_pos (by omega), Nat.add_sub_cancel, singleOf_fields]

theorem singleRepresentable_iff (d : BitVec 64) :
    singleRepresentable d = true ↔ singleToDouble (doubleToSingle d) = d := beq_iff_eq

theorem singleRepresentable_singleToDouble (v : Word32) : singleRepresentable (singleToDouble v) = true :=
  (singleRepresentable_iff _).2 (congrArg singleToDouble (doubleToSingle_singleToDouble v))

/-- The exponent is rebiased and the fraction shifted; a denormalized value is normalized, its value kept. -/
theorem singleToDouble_fields (v : Word32) :
    (singleToDouble v).getLsbD 63 = v.getLsbD 31 ∧
    (singleExponent v = 255 → doubleExponent (singleToDouble v) = 2047 ∧
      doubleFraction (singleToDouble v) = singleFraction v * 2 ^ 29) ∧
    (1 ≤ singleExponent v → singleExponent v ≤ 254 →
      doubleExponent (singleToDouble v) = singleExponent v + 896 ∧
      doubleFraction (singleToDouble v) = singleFraction v * 2 ^ 29) ∧
    (singleExponent v = 0 → singleFraction v = 0 →
      doubleExponent (singleToDouble v) = 0 ∧ doubleFraction (singleToDouble v) = 0) ∧
    (singleExponent v = 0 → singleFraction v ≠ 0 →
      874 ≤ doubleExponent (singleToDouble v) ∧ doubleExponent (singleToDouble v) ≤ 896 ∧
      (2 ^ 52 + doubleFraction (singleToDouble v)) * 2 ^ (doubleExponent (singleToDouble v) - 874) =
        singleFraction v * 2 ^ 52) := by
  refine ⟨?_, fun h => ?_, fun h1 h2 => ?_, fun h0 hf => ?_, fun h0 hf => ?_⟩
  · have := msb_singleToDouble v
    rwa [BitVec.msb_eq_getLsbD_last, BitVec.msb_eq_getLsbD_last] at this
  · rw [singleToDouble_special h, doubleExponent_doubleOf, doubleFraction_doubleOf]
    exact ⟨rfl, shifted_fraction v⟩
  · rw [singleToDouble_normal (by omega) (by omega), doubleExponent_doubleOf, doubleFraction_doubleOf]
    exact ⟨by omega, shifted_fraction v⟩
  · rw [singleToDouble_zero h0 hf, doubleExponent_doubleOf, doubleFraction_doubleOf]
    exact ⟨rfl, rfl⟩
  · have hL := log2_singleFraction_le v
    rw [singleToDouble_denormal h0 hf, doubleExponent_doubleOf, doubleFraction_doubleOf, normalized_fraction hf,
      show (874 + Nat.log2 (singleFraction v)) % 2 ^ 11 = 874 + Nat.log2 (singleFraction v) by omega,
      Nat.add_sub_cancel_left, Nat.mul_assoc, ← Nat.pow_add, Nat.sub_add_cancel (by omega)]
    exact ⟨by omega, by omega, rfl⟩

/-! ## The bytes moved -/

theorem loadWord_byte (s : State) (ea : Word) {k : Nat} (hk : k < 4) :
    (loadWord s ea).extractLsb' (24 - 8 * k) 8 = memRead s.mem (byteAddr s ea k) := by
  refine Eq.trans ?_ (wordOfBytes_byte (fun b : Fin 4 => loadByte s ea b) ⟨k, hk⟩)
  apply BitVec.eq_of_getLsbD_eq
  intro i _
  rw [BitVec.getLsbD_extractLsb', BitVec.getLsbD_extractLsb', getLsbD_zextWord]
  rfl

theorem byteAddr_add_four (s : State) (ea : Word) (k : Nat) : byteAddr s (ea + 4) k = byteAddr s ea (k + 4) := by
  rw [byteAddr, byteAddr, BitVec.add_assoc, BitVec.ofNat_add, BitVec.add_comm (BitVec.ofNat 64 k)]
  rfl

theorem loadDoubleword_byte (s : State) (ea : Word) {k : Nat} (hk : k < 8) :
    (loadDoubleword s ea).extractLsb' (56 - 8 * k) 8 = memRead s.mem (byteAddr s ea k) := by
  rw [loadDoubleword]
  by_cases h : k < 4
  · rw [BitVec.extractLsb'_append_eq_of_le (by omega), ← loadWord_byte s ea h,
      show 56 - 8 * k - 32 = 24 - 8 * k by omega]
  · rw [BitVec.extractLsb'_append_eq_of_add_le (by omega), show k = k - 4 + 4 by omega, ← byteAddr_add_four,
      ← loadWord_byte s _ (by omega), show 56 - 8 * (k - 4 + 4) = 24 - 8 * (k - 4) by omega]

/-! ## The four transfers -/

/-- With MSR[FP] = 1 a floating-point access that nothing stands against is its transfer. -/
theorem floatAccess_of_reachable {kind : Access} {ea : Word} {n : Nat} {s : State} (hfp : msrFP (contextMsr s) = true)
    (hm : dabrMatch s kind ea n = false) (hd : msrDR (contextMsr s) = false) (hl : msrLE (contextMsr s) = false)
    (hmap : ∀ k < n, mapped s.cfg (byteAddr s ea k) = true) (k : Out) : fpAvailable s (dataAccess kind ea n s k) = k :=
  (fpAvailable_of_available hfp _).trans (dataAccess_of_reachable hm hd hl hmap k)

/-- The status bits leave the controls and the reserved bit alone (R31). -/
theorem getLsbD_fpscrStatusBits {k : Nat} (h : k < 8 ∨ k = 11) : fpscrStatusBits.getLsbD k = false := by
  rcases h with h | rfl
  · interval_cases k <;> rfl
  · rfl

theorem undefinedSingleStatus_fpscr (s : State) {k : Nat} (h : k < 8 ∨ k = 11) :
    (undefinedSingleStatus false s).fpscr.getLsbD k = s.fpscr.getLsbD k := by
  rw [undefinedSingleStatus_eq, getLsbD_and_not_computed, getLsbD_merge, getLsbD_fpscrStatusBits h]
  have hk : k ≠ 30 ∧ k ≠ 29 := by omega
  simp [hk]

/-- In the mode `disabled` no status is a reason to stop (R231, R345). -/
theorem fpTrapDue_of_disabled {s t : State} (hc : contextMsr t = contextMsr s)
    (hmode : msrFpMode (contextMsr s) = .disabled) : fpTrapDue t = false := by
  rw [fpTrapDue, hc, hmode]
  exact Bool.and_false _

/-- What a single-precision store of a value without a single-precision form leaves: an undefined word and status. -/
def undefinedSingleStore (s : State) (ea : Word) : State :=
  advance (undefinedSingleStatus false (storeBytes s ea 4 (Decode.byteOfWord (lowWord (freeValue .singleStore s)))))

theorem storeFprSingle_of_unrepresentable {s : State} {fr : FprNum} {ea : Word} (hfp : msrFP (contextMsr s) = true)
    (hm : dabrMatch s .store ea 4 = false) (hd : msrDR (contextMsr s) = false) (hl : msrLE (contextMsr s) = false)
    (hmap : ∀ k < 4, mapped s.cfg (byteAddr s ea k) = true) (hr : singleRepresentable (readFpr s fr) = false)
    (hmode : msrFpMode (contextMsr s) = .disabled) :
    storeFprSingle fr ea s = .next (undefinedSingleStore s ea) := calc
  storeFprSingle fr ea s = fpComplete false (undefinedSingleStore s ea) :=
    (floatAccess_of_reachable hfp hm hd hl hmap _).trans (if_neg (by simp [hr]))
  _ = .next (undefinedSingleStore s ea) :=
    fpComplete_of_not_due (fpTrapDue_of_disabled (t := undefinedSingleStore s ea) rfl hmode) false

/-- Settles O58: the formats are `singleToDouble_fields` and the round trip, the transfers move the bytes of
`loadDoubleword`, `loadWord` and `storeBytes`. -/
theorem floatTransferResult : Obligations.FloatTransferResult := by
  unfold Obligations.FloatTransferResult
  refine ⟨fun v => ⟨doubleToSingle_singleToDouble v, singleRepresentable_singleToDouble v⟩,
    fun d hd => ⟨_, ((singleRepresentable_iff d).1 hd).symm⟩, ?_, fun s fr ea => ⟨fun hfp o ho => ?_,
    fun hfp hd hl hw => ⟨fun hm hmap => ?_, fun hm hmap => ?_, fun hm hmap => ?_, fun hm hmap => ⟨fun hr => ?_,
    fun hr hmode => ?_⟩⟩⟩⟩
  · rintro v d e f x g rfl rfl rfl rfl rfl
    exact singleToDouble_fields v
  · simp only [List.mem_cons, List.not_mem_nil, or_false] at ho
    rcases ho with rfl | rfl | rfl | rfl <;> exact fpAvailable_of_unavailable hfp _
  · refine ⟨_, floatAccess_of_reachable hfp hm hd hl hmap _, fun k hk => ?_,
      fun q hq => readFpr_writeFpr_other s _ hq, fun _ => rfl, rfl⟩
    exact (congrArg (BitVec.extractLsb' (56 - 8 * k) 8) (readFpr_writeFpr_same s fr _)).trans
      (loadDoubleword_byte s ea hk)
  · have hread : readFpr (advance (writeFpr s fr (singleToDouble (loadWord s ea)))) fr =
        singleToDouble (loadWord s ea) := readFpr_writeFpr_same s fr _
    refine ⟨_, floatAccess_of_reachable hfp hm hd hl hmap _, fun k hk => ?_, ?_,
      fun q hq => readFpr_writeFpr_other s _ hq, fun _ => rfl, rfl⟩
    · rw [hread, doubleToSingle_singleToDouble, loadWord_byte s ea hk]
    · rw [hread, singleRepresentable_singleToDouble]
  · exact ⟨_, floatAccess_of_reachable hfp hm hd hl hmap _,
      fun k hk => memRead_storeBytes_same _ (by decide) hk hw, fun a ha => memRead_storeBytes_other _ ha, rfl⟩
  · exact ⟨_, (floatAccess_of_reachable hfp hm hd hl hmap _).trans (if_pos hr),
      fun k hk => memRead_storeBytes_same _ (by decide) hk hw, fun a ha => memRead_storeBytes_other _ ha, rfl⟩
  · exact ⟨_, storeFprSingle_of_unrepresentable hfp hm hd hl hmap hr hmode, fun a ha => memRead_storeBytes_other _ ha,
      fun k hk => undefinedSingleStatus_fpscr _ hk, rfl⟩

end Sys2Proof.Machine
end

section
/-! The order of translation (R123, R130 to R136): when a BAT pair is usable, and what each mechanism answers. -/

namespace Sys2Proof.Machine

open Sys2Proof.Config

/-! ## The BAT pairs (R71 to R75, R131) -/

/-- BL is a string of ones at the right end: one less than a power of two (R73). -/
theorem batBLValid_iff (bl : BitVec 11) : batBLValid bl = true ↔ ∃ k < 12, bl.toNat + 1 = 2 ^ k := by
  have hlt := bl.isLt
  have hand : batBLValid bl = true ↔ bl.toNat &&& (bl.toNat + 1) % 2 ^ 11 = 0 := by
    rw [batBLValid, beq_iff_eq, ← BitVec.toNat_inj, BitVec.toNat_and, BitVec.toNat_add]
    rfl
  rw [hand]
  by_cases htop : bl.toNat = 2 ^ 11 - 1
  · rw [htop]
    exact ⟨fun _ => ⟨11, by decide, rfl⟩, fun _ => rfl⟩
  · have hpow := Nat.and_sub_one_eq_zero_iff_isPowerOfTwo (Nat.succ_ne_zero bl.toNat)
    rw [Nat.mod_eq_of_lt (by omega), Nat.and_comm]
    refine hpow.trans ⟨fun ⟨k, hk⟩ => ⟨k, ?_, hk⟩, fun ⟨k, _, hk⟩ => ⟨k, hk⟩⟩
    exact (Nat.pow_lt_pow_iff_right (a := 2) (by decide)).1 (by omega)

/-- The twelve values of Table 2-12. -/
theorem batBLValid_iff_mem (bl : BitVec 11) : batBLValid bl = true ↔
    bl ∈ [0x000#11, 0x001#11, 0x003#11, 0x007#11, 0x00F#11, 0x01F#11, 0x03F#11, 0x07F#11, 0x0FF#11, 0x1FF#11, 0x3FF#11,
      0x7FF#11] := by
  rw [batBLValid_iff]
  constructor
  · rintro ⟨k, hk, h⟩
    have hbl : bl = BitVec.ofNat 11 (2 ^ k - 1) := by
      rw [← h, Nat.add_sub_cancel, BitVec.ofNat_toNat, BitVec.setWidth_eq]
    rw [hbl]
    interval_cases k <;> decide
  · simp only [List.mem_cons, List.not_mem_nil, or_false]
    rintro (rfl | rfl | rfl | rfl | rfl | rfl | rfl | rfl | rfl | rfl | rfl | rfl) <;> decide

/-- The registers of the kind of access, and its enable. -/
theorem batRegisters_eq (s : State) (kind : AccessKind) :
    batRegisters s kind = if kind = .instruction then s.ibat else s.dbat := by cases kind <;> rfl

theorem translates_eq (s : State) (kind : AccessKind) :
    translates s kind = if kind = .instruction then msrIR (contextMsr s) else msrDR (contextMsr s) := by
  cases kind <;> rfl

theorem batValid_iff (user : Bool) (upper : Word) :
    batValid user upper = true ↔ (if user then upper.getLsbD 0 else upper.getLsbD 1) = true := by
  cases user <;> simp [batValid, batVs, batVp]

/-- The address bits from bit `n` on. -/
theorem getLsbD_ones_from (n k : Nat) :
    (BitVec.allOnes 64 <<< n).getLsbD k = (decide (k < 64) && !decide (k < n)) := by
  rw [BitVec.getLsbD_shiftLeft, BitVec.getLsbD_allOnes]
  by_cases h : k < 64
  · simp [h, show k - n < 64 by omega]
  · simp [h]

/-- BEPI and BRPN have a zero over every one of BL (R75): BL's bit `k` lies over bit 17 + `k`. -/
theorem batAligned_iff (upper lower : Word) : batAligned upper lower = true ↔
    ∀ k < 11, upper.getLsbD (2 + k) = true → upper.getLsbD (17 + k) = false ∧ lower.getLsbD (17 + k) = false := by
  rw [batAligned, beq_iff_eq, BitVec.eq_of_getLsbD_eq_iff,
    show (0xFFFFFFFFFFFE0000 : Word) = BitVec.allOnes 64 <<< 17 by decide]
  simp only [BitVec.getLsbD_and, BitVec.getLsbD_or, getLsbD_batOffsetMask, getLsbD_ones_from]
  constructor
  · intro h k hk hbit
    simpa [show 17 + k < 64 by omega, show 17 + k < 28 by omega, show 17 + k - 15 = 2 + k by omega, hbit]
      using h (17 + k) (by omega)
  · intro h j hj
    by_cases hr : 17 ≤ j ∧ j < 28
    · have hk := h (j - 17) (by omega)
      rw [show 2 + (j - 17) = j - 15 by omega, show 17 + (j - 17) = j by omega] at hk
      by_cases hbit : upper.getLsbD (j - 15) = true
      · simp [hk hbit]
      · simp [hbit, show ¬j < 17 by omega]
    · by_cases h17 : j < 17
      · simp [h17]
      · simp [h17, show ¬j < 28 by omega]

theorem batUsable_iff (s : State) (kind : AccessKind) (n : Fin 4) : batUsable s kind n = true ↔
    ((batUpper s kind n).getLsbD 0 = true ∨ (batUpper s kind n).getLsbD 1 = true →
      batBLValid (batBL (batUpper s kind n)) = true ∧ batAligned (batUpper s kind n) (batLower s kind n) = true) := by
  rw [batUsable, Bool.or_eq_true, Bool.not_eq_true', Bool.and_eq_true, ← Bool.not_eq_true, Bool.or_eq_true, or_comm,
    or_comm (a := batVs _ = true), or_iff_not_imp_right, Classical.not_not]
  rfl

/-- More than one pair matches: no source says which one translates the access (R131). -/
theorem translateAddress_overlapping {s : State} {kind : AccessKind} {a : Word} {m n : Fin 4}
    (h : translates s kind = true) (hb : batsUsable s = true) (hne : m ≠ n)
    (hm : batTranslates s kind (effective s a) m = true) (hn : batTranslates s kind (effective s a) n = true) :
    translateAddress s kind a = .stopped .overlappingBlocks := by
  have all (k : Fin 4) : k ∈ [0, 1, 2, 3] := by
    match k with
    | 0 | 1 | 2 | 3 => simp
  have hm' := List.mem_filter.2 ⟨all m, hm⟩
  have hn' := List.mem_filter.2 ⟨all n, hn⟩
  simp only [translateAddress, h, hb, Bool.not_true, Bool.false_eq_true, if_false]
  generalize [0, 1, 2, 3].filter (batTranslates s kind (effective s a)) = l at hm' hn'
  match l with
  | [] => cases hm'
  | [x] => exact absurd ((List.mem_singleton.1 hm').trans (List.mem_singleton.1 hn').symm) hne
  | _ :: _ :: _ => rfl

/-! ## The segment mechanism (R81 to R83, R134 to R136) -/

/-- The segment table address without its offset: the first three pages are forbidden (R82). -/
theorem segmentTableForbidden_iff (asr : Word) :
    segmentTableForbidden asr = true ↔ asr >>> 12 ∈ [0#64, 1#64, 2#64] := by
  have hbase : segmentTableBase asr = (asr >>> 12) <<< 12 := by
    rw [segmentTableBase, show (0xFFFFFFFFFFFFF000 : Word) = BitVec.allOnes 64 <<< 12 by decide]
    apply BitVec.eq_of_getLsbD_eq
    intro k hk
    rw [BitVec.getLsbD_and, getLsbD_ones_from, BitVec.getLsbD_shiftLeft, BitVec.getLsbD_ushiftRight]
    by_cases h : k < 12
    · simp [h]
    · simp [h, hk, show 12 + (k - 12) = k by omega]
  simp only [segmentTableForbidden, hbase, Bool.or_eq_true, beq_iff_eq, List.mem_cons, List.not_mem_nil, or_false]
  bv_omega

section
variable {s : State} {ea : Word}

theorem segmentRoute_paged {v : Word32} (hw : is64 s.cfg = false)
    (hv : v = s.sr[(segmentSelect ea).toNat]'(segmentSelect ea).isLt) (ht : v.getLsbD 31 = false) :
    segmentRoute s ea =
      pageSearch s (.paged (virtualAddress (v.extractLsb' 0 24) ea) (s.sdr1 &&& 0xFFFF0000)) := by
  simp only [segmentRoute, hw, ← hv, segmentOf, ht, pageTableBase, Bool.false_eq_true, if_false]

theorem segmentRoute_directStore {v : Word32} (hw : is64 s.cfg = false)
    (hv : v = s.sr[(segmentSelect ea).toNat]'(segmentSelect ea).isLt) (ht : v.getLsbD 31 = true) :
    segmentRoute s ea = .directStore (v.extractLsb' 20 9) (v.extractLsb' 0 20) := by
  simp only [segmentRoute, hw, ← hv, segmentOf, ht, Bool.false_eq_true, if_false, if_true]

theorem segmentRoute_slb (hw : is64 s.cfg = true) (h : slbAsSegments s = true) :
    segmentRoute s ea = pageSearch s .slbEntries := by simp only [segmentRoute, hw, h, if_true]

theorem segmentRoute_table (hw : is64 s.cfg = true) (h : slbAsSegments s = false) :
    segmentRoute s ea = if segmentTableForbidden s.asr then .stopped .forbiddenSegmentTable
      else pageSearch s (.segmentTable (segmentTableBase s.asr) (segmentTableValid s.cfg s.asr)) := by
  simp only [segmentRoute, hw, h, if_true, Bool.false_eq_true, if_false]

end

/-- Settles O60: each clause is one branch of `translateAddress` or of `segmentRoute`. -/
theorem translationOrder : Obligations.TranslationOrder := by
  unfold Obligations.TranslationOrder
  refine ⟨batBLValid_iff_mem, fun s kind a ea bats on hea hbats hon => ?_⟩
  subst hea
  obtain rfl : bats = batRegisters s kind := hbats.trans (batRegisters_eq s kind).symm
  obtain rfl : on = translates s kind := hon.trans (translates_eq s kind).symm
  refine ⟨fun n => ?_, fun n => ?_, translateAddress_off a, fun h ⟨k, n, hn⟩ => translateAddress_unusable a h ?_,
    fun h hall => ?_⟩
  · rw [batTranslates, Bool.and_eq_true, batValid_iff]
    rfl
  · rw [batUsable_iff, batAligned_iff]
    rfl
  · rw [Bool.eq_false_iff, ne_eq, batsUsable_iff]
    intro hall
    exact Bool.false_ne_true (hn.symm.trans (hall k n))
  have hb := (batsUsable_iff s).2 hall
  refine ⟨fun n => translateAddress_block h hb, fun m n => translateAddress_overlapping h hb, fun hn => ?_⟩
  rw [translateAddress_segment h hb hn]
  refine ⟨fun hw n v hsel hv => ?_, fun hw => ⟨fun hbr hasr hsf => ?_, fun hno => ?_⟩⟩
  · subst hsel
    exact ⟨segmentRoute_paged hw hv, segmentRoute_directStore hw hv⟩
  · exact segmentRoute_slb hw (by rw [slbAsSegments, hbr, hasr, hsf]; rfl)
  · rw [segmentRoute_table hw (by rcases hno with h | h | h <;> simp [slbAsSegments, h])]
    exact if_congr (segmentTableForbidden_iff _) rfl rfl

end Sys2Proof.Machine
end
